-- ==== Sys2Proof/Word.lean ====
section
/-! DEFINITION. The machine's word: 32 bits, unsigned (R2), the byte a bus lane carries (R54),
and the 33-bit sum of the modular adder (R104). -/

namespace Sys2Proof

/-- The data width `W = 32` of the block (R2, R7): every register, operand and result. -/
abbrev Word := BitVec 32

/-- One byte lane of the host bus (R54). -/
abbrev Byte := BitVec 8

/-- The sum of two words with its carry bit, as the modular adder forms it (R104). -/
abbrev Sum33 := BitVec 33

end Sys2Proof
end

