-- ==== Sys2Proof/Config.lean ====
section
/-! DEFINITION. What is fixed for this hardware (R7, R36, R37) and what its platform fixes (the OPEN
parameter `BASE`, R52). `LATENCY` is no number here: when a command completes is plain data in
`State.events` (R59, log entry 1), and `N_INSTANCES` is the length of a list (`Machine/System.lean`). -/

namespace Sys2Proof.Config

/-- `NDIV`, the number of divisor registers (R7, R26). -/
abbrev ndiv : Nat := 8

/-- The size in bytes of the register window (R7, R50). -/
abbrev windowBytes : Nat := 256

/-- The constant the ID register reads (R36). -/
def idWord : Word := 0x4D4D3332#32

/-- The constant the VERSION register reads (R37). -/
def versionWord : Word := 0x00000001#32

/-- Which 256-byte page of the host's address space the platform gives the block: OPEN, a free
value (R7, R52, log entry 2). -/
opaque basePage : Nat

/-- `BASE`, the host byte address of the window's first byte: a multiple of 256 (R52). -/
def base : Nat := windowBytes * basePage

end Sys2Proof.Config
end

