-- ==== Sys2Proof/Syntax.lean ====
section
/-! DEFINITION. The commands of the block: one constructor for each row of spec/opcode_table.json
(R71), and the fields of the one command-word format (R70). A command word carries no operand (R76). -/

namespace Sys2Proof

/-- The commands (R71). -/
inductive Instr where
  /-- NOP, word 0x00000000 (R163). -/
  | nop
  /-- MULMOD, word 0x00000001 (R100). -/
  | mulmod
  /-- POWMOD, word 0x00000002 (R106). -/
  | powmod
  /-- ISPRIME, word 0x00000003 (R120). -/
  | isprime
  /-- ISPRIME.S, word 0x00000103 (R121). -/
  | isprimeS
  /-- MULORD, word 0x00000004 (R130). -/
  | mulord
  /-- ISPRIMROOT, word 0x00000005 (R135). -/
  | isprimroot
  /-- SAFEPRIME, word 0x00000006 (R150). -/
  | safeprime
deriving DecidableEq, Repr

/-- The fields of a command word (R70): OP in bits 7:0, S in bit 8, RSV in bits 31:9. -/
structure CmdFields where
  op  : BitVec 8
  s   : Bool
  rsv : BitVec 23
deriving DecidableEq, Repr

/-- Why a command word is illegal (R77). -/
inductive IllegalCause where
  /-- A reserved bit of 31:9 is set (R73). -/
  | reservedBits
  /-- S is 1 with an OP other than 0x03 (R72). -/
  | modifierWithOtherOp
  /-- OP is in 0x07-0xFF (R71). -/
  | reservedOpcode
deriving DecidableEq, Repr

/-- What a command word decodes to (R74): a command, or ILLEGAL with its cause. -/
inductive Decoded where
  | legal (i : Instr)
  | illegal (why : IllegalCause)
deriving DecidableEq, Repr

end Sys2Proof
end

