-- ==== Sys2Proof/WellFormed.lean ====
section
/-! DEFINITION. When the fields of a command word are those of a legal word (R77 read the other way
round). `Instr` has no operand field, so every term of it is well formed; what can be ill formed is the
word, and each check below refuses one kind of illegal word. -/

namespace Sys2Proof.CmdFields

/-- RSV is 0 (R73). -/
def reservedClear (c : CmdFields) : Bool := c.rsv == 0#23

/-- S is 0, or OP is 0x03 (R72). -/
def modifierAllowed (c : CmdFields) : Bool := !c.s || c.op == 0x03#8

/-- OP is in 0x00-0x06 (R71). -/
def opcodeAssigned (c : CmdFields) : Bool := decide (c.op.toNat ≤ 6)

/-- The fields are those of a legal command word: none of R77's three conditions holds. -/
def wellFormed (c : CmdFields) : Bool :=
  c.reservedClear && c.modifierAllowed && c.opcodeAssigned

end Sys2Proof.CmdFields
end

