-- ==== Sys2Proof/Decode.lean ====
section
/-! DEFINITION. Decoding a command word (R70, R74), the byte lanes it crosses the bus in (R54), and the
encoder, written from the word table of R71. -/

namespace Sys2Proof

/-- A word with the bits of `v` from bit `lo` up, and 0 elsewhere (R8). -/
def place {n : Nat} (lo : Nat) (v : BitVec n) : Word := v.zeroExtend 32 <<< lo

/-- A command word taken apart into its fields (R70). -/
def CmdFields.ofWord (w : Word) : CmdFields :=
  { op := w.extractLsb' 0 8, s := w.getLsbD 8, rsv := w.extractLsb' 9 23 }

/-- The command word with these fields (R70). -/
def CmdFields.toWord (c : CmdFields) : Word :=
  place 9 c.rsv ||| place 8 (BitVec.ofBool c.s) ||| place 0 c.op

/-- The engine's decoder on the fields of a word, in the order of R74. -/
def decodeFields (c : CmdFields) : Decoded :=
  if c.rsv ≠ 0#23 then .illegal .reservedBits
  else if c.op = 0x03#8 then (if c.s then .legal .isprimeS else .legal .isprime)
  else if c.s then .illegal .modifierWithOtherOp
  else if c.op = 0x00#8 then .legal .nop
  else if c.op = 0x01#8 then .legal .mulmod
  else if c.op = 0x02#8 then .legal .powmod
  else if c.op = 0x04#8 then .legal .mulord
  else if c.op = 0x05#8 then .legal .isprimroot
  else if c.op = 0x06#8 then .legal .safeprime
  else .illegal .reservedOpcode

/-- What a command word decodes to (R74): total on the 2^32 words. -/
def decode (w : Word) : Decoded := decodeFields (CmdFields.ofWord w)

/-- Bits 8k+7 : 8k of a word, which lane `k` of the bus carries (R54). -/
def lane (w : Word) (k : Nat) : Byte := w.extractLsb' (8 * k) 8

/-- The four lanes of a word, lane 0 first (R54). -/
def lanes (w : Word) : List Byte := [lane w 0, lane w 1, lane w 2, lane w 3]

/-- The word that four lanes carry (R54). -/
def ofLanes (b0 b1 b2 b3 : Byte) : Word :=
  place 24 b3 ||| place 16 b2 ||| place 8 b1 ||| place 0 b0

/-- What a command's bytes decode to, lane 0 first: a command is one 32-bit word (R78), so any other
number of bytes is no command. -/
def decodeBytes : List Byte → Option Decoded
  | [b0, b1, b2, b3] => some (decode (ofLanes b0 b1 b2 b3))
  | _ => none

/-- The opcode and modifier the opcode map gives a command (R71). -/
def Instr.fields : Instr → CmdFields
  | .nop        => ⟨0x00#8, false, 0#23⟩
  | .mulmod     => ⟨0x01#8, false, 0#23⟩
  | .powmod     => ⟨0x02#8, false, 0#23⟩
  | .isprime    => ⟨0x03#8, false, 0#23⟩
  | .isprimeS   => ⟨0x03#8, true, 0#23⟩
  | .mulord     => ⟨0x04#8, false, 0#23⟩
  | .isprimroot => ⟨0x05#8, false, 0#23⟩
  | .safeprime  => ⟨0x06#8, false, 0#23⟩

/-- The command word of a command (R71). -/
def encode (i : Instr) : Word := i.fields.toWord

/-- The command that the decoder reads from a table word of `nbits` bits; every bit above them is 0.
The word goes to the decoder as its four bus lanes. -/
def decodeTableWord (nbits w : Nat) : Option Instr :=
  if nbits ≤ 32 then
    match decodeBytes (lanes (BitVec.ofNat 32 (w % 2 ^ nbits))) with
    | some (.legal i) => some i
    | _ => none
  else none

end Sys2Proof
end

