-- ==== Sys2Proof/Machine/State.lean ====
section
/-! DEFINITION. The state of the block: its registers (R20), the hidden engine state (R43, R44), the
reset pin (R230), and the port's two ends: the events still to come (R58, log entry 1) and the bus
answer last given (R11, log entry 3). Plain data throughout. -/

namespace Sys2Proof.Machine

/-- The registers by name (R20). -/
inductive Reg where
  | id | version | ctrl | status | cmd | result | divcnt
  | opa | opb | opm | opt
  | div (i : Fin 8)
deriving DecidableEq, Repr

/-- The divisor register file DIV(0..7) (R26). -/
abbrev DivFile := Vector Word 8

/-- The operand snapshot, taken when a command is accepted (R44). `cmd` holds snap.OP, snap.S and
snap.RSV. -/
structure Snapshot where
  cmd    : CmdFields
  a      : Word
  b      : Word
  m      : Word
  t      : Word
  divcnt : BitVec 4
  div    : DivFile
deriving DecidableEq, Repr

/-- The engine phase, with the snapshot that exists only while it is BUSY (R43, R44). -/
inductive Engine where
  | idle
  | busy (snap : Snapshot)
deriving DecidableEq, Repr

/-- The phase is BUSY. -/
def Engine.isBusy : Engine → Bool
  | .idle => false
  | .busy _ => true

/-- One event of the block's total order (R58). -/
inductive Event where
  /-- A host read transaction of `size` bytes at host byte address `addr` (R11). -/
  | read (addr size : Nat)
  /-- A host write transaction (R11). -/
  | write (addr size : Nat) (v : Word)
  /-- The engine is given the turn: it completes the command it holds, if it holds one (R45, R59). -/
  | engine
  /-- The platform drives `rst_n` to 0 (R230). -/
  | resetLow
  /-- The platform drives `rst_n` to 1 (R230). -/
  | resetHigh
deriving DecidableEq, Repr

/-- The answer to a host transaction (R11). -/
inductive Reply where
  /-- The 32-bit data value of a read. -/
  | data (v : Word)
  /-- A write completed. -/
  | done
  /-- A bus error (R55). -/
  | busError
deriving DecidableEq, Repr

/-- The errors a command can raise (R201). -/
inductive CommandError where
  | invalidModulus | notPrime | range | badDivcnt | illegalCmd
deriving DecidableEq, Repr

/-- The register writes of a successful SAFEPRIME (R150): OPM, OPT, DIV(0..3) and DIVCNT. -/
structure OrderLoad where
  opm    : Word
  opt    : Word
  div0   : Word
  div1   : Word
  div2   : Word
  div3   : Word
  divcnt : BitVec 4
deriving DecidableEq, Repr

/-- How a command ends (R10, R45): `complete(v)`, `complete(v)` with side writes, or `raise`. -/
inductive CommandOutcome where
  | complete (v : Word)
  | completeLoading (v : Word) (side : OrderLoad)
  | raise (e : CommandError) (info : Word)
deriving DecidableEq, Repr

/-- Why the machine stops with a fault. -/
inductive Fault where
  /-- Raised by every command's meaning in a state whose engine is IDLE: "It can occur only while the
  phase is BUSY" (R45), so the spec gives a completion no effect there. No step reaches it: `step` gives
  the engine no completion while it is IDLE (log entry 5). Safe. -/
  | completionWhileIdle
deriving DecidableEq, Repr

/-- Why the machine gives no meaning. -/
inductive Refusal where
  /-- Raised by an arm of `exec` whose command has no meaning yet (none here). Safe. -/
  | notModelled (mnemonic : String)
  /-- Raised by a host transaction to the block while `rst_n` is 0: it "has no defined outcome, and the
  platform must not issue one" (R232, log entry 6). Safe. -/
  | transactionDuringReset
deriving DecidableEq, Repr

/-- The state of one block. -/
structure State where
  /-- CTRL.IE (R30). -/
  ie      : Bool
  /-- STATUS.BUSY (R33). -/
  busy    : Bool
  /-- STATUS.DONE (R34). -/
  done    : Bool
  /-- STATUS.ERR (R35). -/
  err     : Bool
  /-- STATUS.OVR (R38). -/
  ovr     : Bool
  /-- STATUS.ERRCODE (R35). -/
  errcode : BitVec 4
  /-- STATUS.LASTOP (R39). -/
  lastop  : BitVec 8
  /-- The CMD readback: the last accepted word (R29). -/
  cmd     : Word
  /-- RESULT (R28). -/
  result  : Word
  /-- DIVCNT bits 3:0 (R27). -/
  divcnt  : BitVec 4
  /-- OPA (R22). -/
  opa     : Word
  /-- OPB (R23). -/
  opb     : Word
  /-- OPM (R24). -/
  opm     : Word
  /-- OPT (R25). -/
  opt     : Word
  /-- DIV(0..7) (R26). -/
  div     : DivFile
  /-- The engine phase and the operand snapshot (R43, R44). -/
  engine  : Engine
  /-- `rst_n` is 0 (R230). -/
  inReset : Bool
  /-- The events still to come, in the block's total order (R58, log entry 1). -/
  events  : List Event
  /-- The answer to the last transaction (R11, log entry 3): none before the first one, and after one
  that did not address the block. -/
  reply   : Option Reply
deriving DecidableEq, Repr

/-- The machine right after reset (R230): every register 0, the engine IDLE with no snapshot, `rst_n`
released, no event waiting. -/
def State.reset : State where
  ie      := false
  busy    := false
  done    := false
  err     := false
  ovr     := false
  errcode := 0#4
  lastop  := 0x00#8
  cmd     := 0#32
  result  := 0#32
  divcnt  := 0#4
  opa     := 0#32
  opb     := 0#32
  opm     := 0#32
  opt     := 0#32
  div     := #v[0#32, 0#32, 0#32, 0#32, 0#32, 0#32, 0#32, 0#32]
  engine  := .idle
  inReset := false
  events  := []
  reply   := none

end Sys2Proof.Machine
end

