-- ==== Sys2Proof/Machine/Flags.lean ====
section
/-! DEFINITION. The STATUS word and its flags: what acceptance, completion, a dropped command and a
STATUS write do to them (R32-R40), the error codes (R201) and the interrupt output (R210). -/

namespace Sys2Proof.Machine

/-- The code of an error (R201). -/
def CommandError.code : CommandError → BitVec 4
  | .invalidModulus => 1#4
  | .notPrime       => 2#4
  | .range          => 3#4
  | .badDivcnt      => 4#4
  | .illegalCmd     => 5#4

/-- The STATUS word: LASTOP in bits 15:8, ERRCODE in 7:4, OVR, ERR, DONE, BUSY in 3 to 0, and 0 in
31:16 (R32). -/
def State.statusWord (s : State) : Word :=
  place 8 s.lastop ||| place 4 s.errcode ||| place 3 (BitVec.ofBool s.ovr) |||
    place 2 (BitVec.ofBool s.err) ||| place 1 (BitVec.ofBool s.done) |||
    place 0 (BitVec.ofBool s.busy)

/-- The interrupt output `irq = STATUS.DONE AND CTRL.IE` (R210). -/
def State.irq (s : State) : Bool := s.done && s.ie

/-- STATUS at the acceptance of the word `w` (R160): OVR is not written. -/
def State.flagsAccepted (s : State) (w : Word) : State :=
  { s with
    lastop := w.extractLsb' 0 8, err := false, errcode := 0#4, done := false, busy := true }

/-- STATUS at a completion with this code, 0 for none (R45). -/
def State.flagsCompleted (s : State) (code : BitVec 4) : State :=
  { s with err := code != 0#4, errcode := code, busy := false, done := true }

/-- STATUS when a CMD write is dropped (R161). -/
def State.flagsDropped (s : State) : State := { s with ovr := true }

/-- STATUS after a host writes `v` to it (R167). -/
def State.flagsWritten (s : State) (v : Word) : State :=
  { s with
    done := if v.getLsbD 1 && !s.busy then false else s.done
    ovr  := if v.getLsbD 3 then false else s.ovr }

end Sys2Proof.Machine
end

