-- ==== Sys2Proof/Machine/Operands.lean ====
section
/-! DEFINITION. How a command gets its operands (R44, R75, R76): the snapshot, the divisor sequence and
the one signed reading; and `u32`, the narrowing of a result (R9). -/

namespace Sys2Proof.Machine

/-- `u32(v)`, for a `v` in `[0, 2^32)` (R9). -/
def u32 (v : Nat) : Word := BitVec.ofNat 32 v

/-- A `bool` result: 1 for true and 0 for false (R28). -/
def ofBool (b : Bool) : Word := if b then 1#32 else 0#32

/-- The snapshot taken when the word `w` is accepted (R44). -/
def State.capture (s : State) (w : Word) : Snapshot where
  cmd    := CmdFields.ofWord w
  a      := s.opa
  b      := s.opb
  m      := s.opm
  t      := s.opt
  divcnt := s.divcnt
  div    := s.div

/-- The divisor sequence snap.DIV(0) to snap.DIV(snap.DIVCNT-1), in index order (R76). -/
def Snapshot.divisors (q : Snapshot) : List Nat :=
  (q.div.toList.take q.divcnt.toNat).map BitVec.toNat

/-- snap.DIVCNT > NDIV (R132). -/
def Snapshot.tooManyDivisors (q : Snapshot) : Bool := decide (Config.ndiv < q.divcnt.toNat)

/-- `int32(n)` is negative, read off bit 31 as R121 does. -/
def negative (n : Word) : Bool := n.getLsbD 31

end Sys2Proof.Machine
end

