-- ==== Sys2Proof/Machine/Ops.lean ====
section
/-! DEFINITION. The shared operations: the register map and register reads and writes (R164-R167),
acceptance (R160), the one completion every command ends in, with an error or without (R45, R200), reset
(R230, R231), and the bus port (R52-R55). -/

namespace Sys2Proof.Machine

/-! ### The register map -/

/-- The offset of a register in the window (R20). -/
def Reg.offset : Reg → Nat
  | .id      => 0x00
  | .version => 0x04
  | .ctrl    => 0x08
  | .status  => 0x0C
  | .cmd     => 0x10
  | .result  => 0x14
  | .divcnt  => 0x18
  | .opa     => 0x20
  | .opb     => 0x24
  | .opm     => 0x28
  | .opt     => 0x2C
  | .div i   => 0x40 + 4 * i.val

/-- The registers of the block: exactly these (R20). -/
def registers : List Reg :=
  [.id, .version, .ctrl, .status, .cmd, .result, .divcnt, .opa, .opb, .opm, .opt,
    .div 0, .div 1, .div 2, .div 3, .div 4, .div 5, .div 6, .div 7]

/-- The register at an offset, none where the offset is reserved or not a register's (R51, R53). -/
def regAt (off : Nat) : Option Reg := registers.find? fun r => r.offset == off

/-! ### Register reads -/

/-- What a read of a register returns (R164). ID and VERSION are hard-wired (R36, R37). -/
def State.readReg (s : State) : Reg → Word
  | .id      => Config.idWord
  | .version => Config.versionWord
  | .ctrl    => BitVec.zeroExtend 32 (BitVec.ofBool s.ie)
  | .status  => s.statusWord
  | .cmd     => s.cmd
  | .result  => s.result
  | .divcnt  => BitVec.zeroExtend 32 s.divcnt
  | .opa     => s.opa
  | .opb     => s.opb
  | .opm     => s.opm
  | .opt     => s.opt
  | .div i   => s.div[i]

/-- What a well-formed read at an offset returns (R164): 0 at a reserved offset (R53). -/
def State.readOffset (s : State) (off : Nat) : Word :=
  match regAt off with
  | some r => s.readReg r
  | none => 0#32

/-! ### Reset -/

/-- Every register and the engine as after reset (R230). The pin, the events still to come and the bus
answer are not the block's registers and stay. -/
def State.resetBlock (s : State) : State :=
  { State.reset with inReset := s.inReset, events := s.events, reply := s.reply }

/-! ### Acceptance and completion -/

/-- Acceptance of the command word `w` (R160). -/
def State.accept (s : State) (w : Word) : State :=
  { s.flagsAccepted w with engine := .busy (s.capture w), cmd := w }

/-- The completion event (R45) with this error code and result. -/
def State.finish (s : State) (code : BitVec 4) (result : Word) : State :=
  { s.flagsCompleted code with result := result, engine := .idle }

/-- `complete(v)` (R10, R45). -/
def State.complete (s : State) (v : Word) : State := s.finish 0#4 v

/-- `raise Error(info)` (R10, R200, R203): the block takes no trap, so this is its whole error
entry, and there is no return from it (R214, R215). -/
def State.raise (s : State) (e : CommandError) (info : Word) : State := s.finish e.code info

/-- The side writes of a successful SAFEPRIME (R150). DIV(4..7) are not written. -/
def State.load (s : State) (side : OrderLoad) : State :=
  { s with
    opm    := side.opm
    opt    := side.opt
    div    := (((s.div.set 0 side.div0).set 1 side.div1).set 2 side.div2).set 3 side.div3
    divcnt := side.divcnt }

/-- A command ends, with its side writes in the same event (R45, R46). -/
def State.conclude (s : State) : CommandOutcome → State
  | .complete v             => s.complete v
  | .completeLoading v side => (s.load side).complete v
  | .raise e info           => s.raise e info

/-- The shared form of a meaning: the engine completes the command it holds, computing from the
snapshot only (R44, R45). While it is IDLE there is no completion. -/
def completeHeld (s : State) (rule : Snapshot → CommandOutcome) :
    Host.Outcome State Fault Refusal :=
  match s.engine with
  | .idle => .fault .completionWhileIdle
  | .busy q => .next (s.conclude (rule q))

/-! ### Register writes -/

/-- A CMD write: accepted while the phase is IDLE (R160), dropped while it is BUSY (R161). -/
def State.writeCmd (s : State) (v : Word) : State :=
  match s.engine with
  | .idle => s.accept v
  | .busy _ => s.flagsDropped

/-- A CTRL write (R166): soft reset if bit 1 is 1 (R231), else IE takes bit 0. -/
def State.writeCtrl (s : State) (v : Word) : State :=
  if v.getLsbD 1 then s.resetBlock else { s with ie := v.getLsbD 0 }

/-- A write to a register (R165). ID, VERSION and RESULT are read-only (R21). -/
def State.writeReg (s : State) (r : Reg) (v : Word) : State :=
  match r with
  | .id      => s
  | .version => s
  | .ctrl    => s.writeCtrl v
  | .status  => s.flagsWritten v
  | .cmd     => s.writeCmd v
  | .result  => s
  | .divcnt  => { s with divcnt := v.extractLsb' 0 4 }
  | .opa     => { s with opa := v }
  | .opb     => { s with opb := v }
  | .opm     => { s with opm := v }
  | .opt     => { s with opt := v }
  | .div i   => { s with div := s.div.set i v }

/-- A well-formed write at an offset (R165): ignored at a reserved offset (R53). -/
def State.writeOffset (s : State) (off : Nat) (v : Word) : State :=
  match regAt off with
  | some r => s.writeReg r v
  | none => s

/-! ### The bus port -/

/-- The offset that a host address selects in the window at `base`, none where it does not select the
block (R52). -/
def windowOffset (base addr : Nat) : Option Nat :=
  if base ≤ addr ∧ addr < base + Config.windowBytes then some (addr - base) else none

/-- The only accepted access: 32 bits, at an offset that is a multiple of 4 (R55). -/
def accessAllowed (off size : Nat) : Bool := size == 4 && off % 4 == 0

/-- The block answers a transaction. -/
def State.answer (s : State) (r : Option Reply) : State := { s with reply := r }

/-- The block with these events still to come. -/
def State.withEvents (s : State) (es : List Event) : State := { s with events := es }

/-- A read transaction that selects the block (R55, R164): no side effect but the answer (R57). -/
def State.serveRead (s : State) (off size : Nat) : State :=
  if accessAllowed off size then s.answer (some (.data (s.readOffset off)))
  else s.answer (some .busError)

/-- A write transaction that selects the block (R55, R165). -/
def State.serveWrite (s : State) (off size : Nat) (v : Word) : State :=
  if accessAllowed off size then (s.writeOffset off v).answer (some .done)
  else s.answer (some .busError)

end Sys2Proof.Machine
end

