-- ==== Sys2Proof/Machine/Control.lean ====
section
/-! DEFINITION. NOP (44_control.md). -/

namespace Sys2Proof.Machine

/-- NOP (R163): RESULT keeps its value, ERR and ERRCODE are cleared. -/
def execNop (s : State) : Host.Outcome State Fault Refusal :=
  completeHeld s fun _ => .complete s.result

end Sys2Proof.Machine
end

