-- ==== Sys2Proof/Machine/Numeric.lean ====
section
/-! DEFINITION. The numeric values of the commands, on unbounded numbers as R9 reads pseudocode: the
modular product (R100), square-and-multiply (R107), trial division (R120) and the divisor scan (R130).
The bit-level reference datapath, with its step counts, is Machine/Datapath.lean (log entry 8). -/

namespace Sys2Proof.Machine.Numeric

/-- `(a * b) mod m` (R100), for `m > 0`. -/
def mulmod (a b m : Nat) : Nat := (a * b) % m

/-- The square-and-multiply loop of R107, with at most `fuel` bits of the exponent left: `r` is the
result so far and `b` the base for the exponent's lowest bit. -/
def powmodLoop : (fuel e b r m : Nat) → Nat
  | 0, _, _, r, _ => r
  | fuel + 1, e, b, r, m =>
    if e = 0 then r
    else powmodLoop fuel (e / 2) (mulmod b b m) (if e % 2 = 1 then mulmod r b m else r) m

/-- `(b ^ e) mod m` for a 32-bit exponent and `m > 0`: the loop of R107 from `1 mod m` (R108). -/
def powmod (b e m : Nat) : Nat := powmodLoop 32 e b (1 % m) m

/-- No odd `d` from `d` up to `isqrt(n)` divides `n`, trying at most `fuel` of them (R120). The bound
`d <= isqrt(n)` is tested as `d*d <= n` on unbounded numbers, which cannot wrap (R122). -/
def noOddDivisor : (fuel d n : Nat) → Bool
  | 0, _, _ => true
  | fuel + 1, d, n =>
    if n < d * d then true
    else if n % d = 0 then false
    else noOddDivisor fuel (d + 2) n

/-- How many trial divisors a 32-bit operand can need: the odd numbers from 3 to 65535 (R122, R253). -/
def maxTrials : Nat := 32767

/-- `prime32(n)` of R120, for an unsigned 32-bit `n`. -/
def prime32 (n : Word) : Bool :=
  if n.toNat = 2 then true
  else if n.toNat < 2 ∨ n.toNat % 2 = 0 then false
  else noOddDivisor maxTrials 3 n.toNat

/-- The scan of R130 with an `r` already reduced: the first divisor, in index order, whose power is 1,
and the sentinel 0 when there is none. -/
def firstMatch (r n : Nat) : List Nat → Nat
  | [] => 0
  | d :: ds => if powmod r d n = 1 then d else firstMatch r n ds

/-- `order(r, n, div, cnt)` of R130, on the divisors that count. -/
def order (r n : Nat) (divisors : List Nat) : Nat := firstMatch (r % n) n divisors

end Sys2Proof.Machine.Numeric
end

