-- ==== Sys2Proof/Machine/ModArith.lean ====
section
/-! DEFINITION. MULMOD and POWMOD (40_modarith.md). -/

namespace Sys2Proof.Machine

/-- The rule of MULMOD (R100). -/
def mulmodRule (q : Snapshot) : CommandOutcome :=
  if q.m = 0#32 then .raise .invalidModulus 0#32
  else .complete (u32 (Numeric.mulmod q.a.toNat q.b.toNat q.m.toNat))

/-- The rule of POWMOD (R106, by the loop of R107). -/
def powmodRule (q : Snapshot) : CommandOutcome :=
  if q.m = 0#32 then .raise .invalidModulus 0#32
  else .complete (u32 (Numeric.powmod q.a.toNat q.b.toNat q.m.toNat))

/-- MULMOD (R100). -/
def execMulmod (s : State) : Host.Outcome State Fault Refusal := completeHeld s mulmodRule

/-- POWMOD (R106). -/
def execPowmod (s : State) : Host.Outcome State Fault Refusal := completeHeld s powmodRule

end Sys2Proof.Machine
end

