-- ==== Sys2Proof/Machine/Order.lean ====
section
/-! DEFINITION. MULORD and ISPRIMROOT (42_order.md). -/

namespace Sys2Proof.Machine

/-- `order(snap.A, snap.M, snap.DIV, snap.DIVCNT)` (R130). -/
def Snapshot.order (q : Snapshot) : Nat := Numeric.order q.a.toNat q.m.toNat q.divisors

/-- The rule of MULORD (R130): the modulus is checked before the divisor count (R204). -/
def mulordRule (q : Snapshot) : CommandOutcome :=
  if q.m = 0#32 then .raise .invalidModulus 0#32
  else if q.tooManyDivisors then .raise .badDivcnt 0#32
  else .complete (u32 q.order)

/-- The rule of ISPRIMROOT (R135): a literal comparison with snap.T (R136). -/
def isprimrootRule (q : Snapshot) : CommandOutcome :=
  if q.m = 0#32 then .raise .invalidModulus 0#32
  else if q.tooManyDivisors then .raise .badDivcnt 0#32
  else .complete (ofBool (q.order == q.t.toNat))

/-- MULORD (R130). -/
def execMulord (s : State) : Host.Outcome State Fault Refusal := completeHeld s mulordRule

/-- ISPRIMROOT (R135). -/
def execIsprimroot (s : State) : Host.Outcome State Fault Refusal := completeHeld s isprimrootRule

end Sys2Proof.Machine
end

