-- ==== Sys2Proof/Machine/Primality.lean ====
section
/-! DEFINITION. ISPRIME and ISPRIME.S (41_primality.md). -/

namespace Sys2Proof.Machine

/-- The rule of ISPRIME: the operand is unsigned (R120). -/
def isprimeRule (q : Snapshot) : CommandOutcome := .complete (ofBool (Numeric.prime32 q.a))

/-- The rule of ISPRIME.S: the operand is `int32`, and a negative one is not prime (R121). -/
def isprimeSRule (q : Snapshot) : CommandOutcome :=
  if negative q.a then .complete 0#32 else .complete (ofBool (Numeric.prime32 q.a))

/-- ISPRIME (R120). -/
def execIsprime (s : State) : Host.Outcome State Fault Refusal := completeHeld s isprimeRule

/-- ISPRIME.S (R121). -/
def execIsprimeS (s : State) : Host.Outcome State Fault Refusal := completeHeld s isprimeSRule

end Sys2Proof.Machine
end

