-- ==== Sys2Proof/Machine/SafePrime.lean ====
section
/-! DEFINITION. SAFEPRIME (43_safeprime.md). -/

namespace Sys2Proof.Machine

/-- The registers a successful SAFEPRIME loads for the Sophie Germain prime `p` (R150, R153). -/
def orderLoad (p : Nat) : OrderLoad :=
  if p = 2 then
    { opm := u32 5, opt := u32 4, div0 := 1#32, div1 := 2#32, div2 := 4#32, div3 := 0#32,
      divcnt := 3#4 }
  else
    { opm := u32 (2 * p + 1), opt := u32 (2 * p), div0 := 1#32, div1 := 2#32, div2 := u32 p,
      div3 := u32 (2 * p), divcnt := 4#4 }

/-- The failure mask (R151): bit 0 for a safe prime that is not prime, bit 1 for a Sophie Germain prime
that is not prime. Both checks always run. -/
def failMask (safePrimeIsPrime sophieGermainIsPrime : Bool) : Word :=
  (if safePrimeIsPrime then 0b00#32 else 0b01#32) |||
    (if sophieGermainIsPrime then 0b00#32 else 0b10#32)

/-- The rule of SAFEPRIME (R150): RANGE before the primality checks (R204). -/
def safeprimeRule (q : Snapshot) : CommandOutcome :=
  let p := q.a.toNat
  if 2 ^ 31 ≤ p then .raise .range 0#32
  else
    let safePrime := u32 (2 * p + 1)
    let fail := failMask (Numeric.prime32 safePrime) (Numeric.prime32 q.a)
    if fail ≠ 0#32 then .raise .notPrime fail else .completeLoading safePrime (orderLoad p)

/-- SAFEPRIME (R150). -/
def execSafeprime (s : State) : Host.Outcome State Fault Refusal := completeHeld s safeprimeRule

end Sys2Proof.Machine
end

