-- ==== Sys2Proof/Machine/Dispatch.lean ====
section
/-! DEFINITION. The dispatch of R162: the completion of the command `i` in the state `s`. A word that
decodes to ILLEGAL is no `Instr`; `completion` (Machine/Events.lean) ends it with ILLEGAL_CMD. -/

namespace Sys2Proof.Machine

def exec (i : Instr) (s : State) : Host.Outcome State Fault Refusal :=
  match i with
  | .nop => Sys2Proof.Machine.execNop s
  | .mulmod => Sys2Proof.Machine.execMulmod s
  | .powmod => Sys2Proof.Machine.execPowmod s
  | .isprime => Sys2Proof.Machine.execIsprime s
  | .isprimeS => Sys2Proof.Machine.execIsprimeS s
  | .mulord => Sys2Proof.Machine.execMulord s
  | .isprimroot => Sys2Proof.Machine.execIsprimroot s
  | .safeprime => Sys2Proof.Machine.execSafeprime s

end Sys2Proof.Machine
end

