-- ==== Sys2Proof/Machine/Events.lean ====
section
/-! DEFINITION. The events of the block's total order (R58): the completion of the held command (R45,
R162), host transactions (R11), and the reset pin (R230). -/

namespace Sys2Proof.Machine

/-- The engine's one step (R45): it decodes the snapshot's word and runs the rule that names, and an
ILLEGAL word ends with ILLEGAL_CMD and RESULT 0 (R77, R162). While the phase is IDLE it is not enabled
and nothing happens. -/
def completion (s : State) : Host.Outcome State Fault Refusal :=
  match s.engine with
  | .idle => .next s
  | .busy q =>
    match decodeFields q.cmd with
    | .legal i => exec i s
    | .illegal _ => .next (s.raise .illegalCmd 0#32)

/-- The engine is given the turn. While `rst_n` is 0 it has no step (R230). -/
def engineTurn (s : State) : Host.Outcome State Fault Refusal :=
  if s.inReset then .next s else completion s

/-- A host transaction that selects the block, served by `serve`: refused while `rst_n` is 0 (R232,
log entry 6). -/
def transact (s : State) (serve : State → State) : Host.Outcome State Fault Refusal :=
  if s.inReset then .refused .transactionDuringReset else .next (serve s)

/-- `rst_n` is driven to 0: every register takes its reset value, and a command in flight is abandoned
(R230). -/
def State.pinLow (s : State) : State :=
  { s.resetBlock with inReset := true, reply := none }

/-- `rst_n` is driven to 1: on its release every register takes its reset value (R230). Where it was 1
already, nothing changes (log entry 6). -/
def State.pinHigh (s : State) : State :=
  if s.inReset then { s.resetBlock with inReset := false, reply := none } else s

/-- One event, for a window at `base`. A transaction whose address does not select the block (R52) leaves
the block as it is, and the block gives it no answer (log entries 3 and 7). -/
def happen (base : Nat) (e : Event) (s : State) : Host.Outcome State Fault Refusal :=
  match e with
  | .engine => engineTurn s
  | .resetLow => .next s.pinLow
  | .resetHigh => .next s.pinHigh
  | .read addr size =>
    match windowOffset base addr with
    | none => .next (s.answer none)
    | some off => transact s fun t => t.serveRead off size
  | .write addr size v =>
    match windowOffset base addr with
    | none => .next (s.answer none)
    | some off => transact s fun t => t.serveWrite off size v

/-- One step of a block whose window is at `base`: the next event of the total order happens (R58). When
no event is left the engine has the turn, so a command that is held completes (R59). -/
def stepAt (base : Nat) (s : State) : Host.Outcome State Fault Refusal :=
  match s.events with
  | [] => engineTurn s
  | e :: rest => happen base e (s.withEvents rest)

end Sys2Proof.Machine
end

