-- ==== Sys2Proof/Machine/Step.lean ====
section
/-! DEFINITION. The step of the block, with its window where the platform puts it (R52), and how a
command word is given to it (log entry 4). -/

namespace Sys2Proof.Machine

/-- One step: the next event of the block's total order (R58), with the window at the OPEN `BASE`. -/
def step (s : State) : Host.Outcome State Fault Refusal := stepAt Config.base s

/-- The block fetches nothing (R63): the next command it runs is the one it has accepted. So `s` with a
word to run is `s` with that word just accepted (R160), its operands the registers of `s`, `rst_n`
released, and the engine's turn next. -/
def State.withFetchWord (s : State) (nbits w : Nat) : State :=
  { s.accept (BitVec.ofNat 32 (w % 2 ^ nbits)) with
    inReset := false, events := .engine :: s.events }

end Sys2Proof.Machine
end

