-- ==== Sys2Proof/Machine/Datapath.lean ====
section
/-! DEFINITION. The reference datapath (R101-R104, R107, R122) at the widths the spec gives it, with the
algorithm steps it takes (R251-R255). Its values are those of Machine/Numeric.lean; its step counts are no
cycle counts and reach no register (R250). -/

namespace Sys2Proof.Machine.Datapath

/-- A value of the datapath, with the number of steps taken to form it. -/
structure Counted (α : Type) where
  value : α
  steps : Nat
deriving DecidableEq, Repr

/-- The modular adder (R104), for `x < m` and `y < m`: a 33-bit sum, less `m` once if it reaches `m`. -/
def addmod (x y m : Word) : Word :=
  let sum : Sum33 := x.zeroExtend 33 + y.zeroExtend 33
  let modulus : Sum33 := m.zeroExtend 33
  (if modulus ≤ sum then sum - modulus else sum).extractLsb' 0 32

/-- The double-and-add loop (R103): `a` is the loop operand, `b` the accumulator operand. It counts its
iterations. -/
def doubleAndAdd : (fuel : Nat) → (a b acc m : Word) → Counted Word
  | 0, _, _, acc, _ => ⟨acc, 0⟩
  | fuel + 1, a, b, acc, m =>
    if a ≠ 0#32 ∧ b ≠ 0#32 then
      let rest := doubleAndAdd fuel (a >>> 1) (addmod b b m)
        (if a.getLsbD 0 then addmod acc b m else acc) m
      ⟨rest.value, rest.steps + 1⟩
    else ⟨acc, 0⟩

/-- The slow path (R103): the smaller reduced operand drives the loop. -/
def slowPath (a b m : Word) : Counted Word :=
  if b < a then doubleAndAdd 32 b a 0#32 m else doubleAndAdd 32 a b 0#32 m

/-- The fast path (R102): both reduced operands fit in 16 bits, so their product fits in 32. -/
def fastPath (a b m : Word) : Counted Word := ⟨(a * b) % m, 0⟩

/-- The MULMOD datapath (R101-R103), for `m > 0`. Its steps are the slow path's iterations (R251). -/
def mulmod (a b m : Word) : Counted Word :=
  let x := a % m
  let y := b % m
  if x ≤ 0xFFFF#32 ∧ y ≤ 0xFFFF#32 then fastPath x y m else slowPath x y m

/-- The POWMOD loop (R107). It counts the MULMODs it makes. -/
def powmodLoop : (fuel : Nat) → (e b r m : Word) → Counted Word
  | 0, _, _, r, _ => ⟨r, 0⟩
  | fuel + 1, e, b, r, m =>
    if e = 0#32 then ⟨r, 0⟩
    else
      let square := (mulmod b b m).value
      if e.getLsbD 0 then
        let rest := powmodLoop fuel (e >>> 1) square (mulmod r b m).value m
        ⟨rest.value, rest.steps + 2⟩
      else
        let rest := powmodLoop fuel (e >>> 1) square r m
        ⟨rest.value, rest.steps + 1⟩

/-- The POWMOD datapath (R107), for `m > 0`, from `1 mod m` (R108). Its steps are MULMODs (R252). -/
def powmod (b e m : Word) : Counted Word := powmodLoop 32 e b (1#32 % m) m

/-- The trial-division loop (R120), with `d*d` compared in 33 bits (R122). It counts the divisions. -/
def trialLoop : (fuel : Nat) → (d : Sum33) → (n : Word) → Counted Bool
  | 0, _, _ => ⟨true, 0⟩
  | fuel + 1, d, n =>
    if n.zeroExtend 33 < d * d then ⟨true, 0⟩
    else if n.zeroExtend 33 % d = 0#33 then ⟨false, 1⟩
    else
      let rest := trialLoop fuel (d + 2#33) n
      ⟨rest.value, rest.steps + 1⟩

/-- The ISPRIME datapath (R120, R122). Its steps are trial divisions (R253). -/
def prime32 (n : Word) : Counted Bool :=
  if n = 2#32 then ⟨true, 0⟩
  else if n < 2#32 ∨ n.getLsbD 0 = false then ⟨false, 0⟩
  else trialLoop Numeric.maxTrials 3#33 n

/-- The divisor scan (R130, R131): it stops at the first divisor whose power is 1. It counts the MULMODs
of the POWMODs it makes (R254). -/
def scan (r n : Word) : List Word → Counted Word
  | [] => ⟨0#32, 0⟩
  | d :: ds =>
    let power := powmod r d n
    if power.value = 1#32 then ⟨d, power.steps⟩
    else
      let rest := scan r n ds
      ⟨rest.value, power.steps + rest.steps⟩

/-- The MULORD datapath (R130), for `n > 0`. -/
def order (r n : Word) (divisors : List Word) : Counted Word := scan (r % n) n divisors

/-- The two primality tests of SAFEPRIME, both always run (R151), for `p < 2^31`: the outcome for the
safe prime and the outcome for `p`. Its steps are trial divisions (R255). -/
def safePrimeChecks (p : Word) : Counted (Bool × Bool) :=
  let ofSafePrime := prime32 (2#32 * p + 1#32)
  let ofSophieGermain := prime32 p
  ⟨(ofSafePrime.value, ofSophieGermain.value), ofSafePrime.steps + ofSophieGermain.steps⟩

/-- The number of bits of `e` up to its highest set bit (R252). -/
def bitLength (e : Word) : Nat := if e = 0#32 then 0 else Nat.log2 e.toNat + 1

/-- The number of set bits of `e` (R252). -/
def popCount (e : Word) : Nat := ((List.range 32).filter fun k => e.getLsbD k).length

end Sys2Proof.Machine.Datapath
end

