-- ==== Sys2Proof/Machine/Driver.lean ====
section
/-! DEFINITION. The host's side: the notation of R79-R82 as the bus transactions it stands for, one call
of a command (R81), the host's reading of an error code (R217), and the host's search for primitive
roots (R155), which the spec leaves to host software (R6). The block itself is Machine/Events.lean. -/

namespace Sys2Proof.Machine.Driver

/-! ### The notation -/

/-- A line of the host notation that makes bus transactions. -/
inductive Line where
  /-- `WR <reg>, <v>` (R79). -/
  | wr (r : Reg) (v : Word)
  /-- `RD <reg> -> <h>` (R79). -/
  | rd (r : Reg)
  /-- `WAIT` (R79), where the poll that returned DONE = 1 was the `polls`-th. -/
  | wait (polls : Nat)
  /-- A command mnemonic (R80). -/
  | command (i : Instr)
  /-- `EXEC <mnemonic> -> <h>, <e>` (R81), with the number of polls of its WAIT. -/
  | call (i : Instr) (polls : Nat)
  /-- `SETDIV d0, ..., dk-1` (R82), for k <= NDIV. -/
  | setdiv (ds : List Word)
deriving DecidableEq, Repr

/-- `MemWrite(BASE + off(reg), 4, v)` (R79). -/
def writeTo (base : Nat) (r : Reg) (v : Word) : Event := .write (base + r.offset) 4 v

/-- `MemRead(BASE + off(reg), 4)` (R79). -/
def readFrom (base : Nat) (r : Reg) : Event := .read (base + r.offset) 4

/-- The writes of DIV(i), DIV(i+1), … in SETDIV (R82). -/
def divWrites (base : Nat) : (i : Nat) → List Word → List Event
  | _, [] => []
  | i, d :: ds => .write (base + 0x40 + 4 * i) 4 d :: divWrites base (i + 1) ds

/-- The bus transactions a line stands for (R79-R82). -/
def Line.transactions (base : Nat) : Line → List Event
  | .wr r v => [writeTo base r v]
  | .rd r => [readFrom base r]
  | .wait polls => List.replicate polls (readFrom base .status)
  | .command i => [writeTo base .cmd (encode i)]
  | .call i polls =>
    writeTo base .cmd (encode i) :: (List.replicate polls (readFrom base .status) ++
      [readFrom base .result])
  | .setdiv ds => divWrites base 0 ds ++ [writeTo base .divcnt (BitVec.ofNat 32 ds.length)]

/-! ### One call -/

/-- The event `e` happens now, before the events still to come. -/
def now (base : Nat) (e : Event) (s : State) : Host.Outcome State Fault Refusal :=
  happen base e s

/-- Goes on from a next state. -/
def andThen {α β : Type} (o : Host.Outcome α Fault Refusal)
    (k : α → Host.Outcome β Fault Refusal) : Host.Outcome β Fault Refusal :=
  match o with
  | .next a => k a
  | .fault r => .fault r
  | .refused r => .refused r

/-- The data value of the last answer, 0 where it is none. -/
def answered (s : State) : Word :=
  match s.reply with
  | some (.data v) => v
  | _ => 0#32

/-- What a call leaves: the block, the value read from RESULT and the ERRCODE field of the STATUS word
read (R81). -/
structure Returned where
  block   : State
  value   : Word
  errcode : BitVec 4
deriving DecidableEq, Repr

/-- One call (R81): the command is written, completes before the first poll, and STATUS and RESULT are
read, with no other transaction in between (log entry 10). -/
def call (base : Nat) (i : Instr) (s : State) : Host.Outcome Returned Fault Refusal :=
  andThen (now base (writeTo base .cmd (encode i)) s) fun s1 =>
  andThen (now base .engine s1) fun s2 =>
  andThen (now base (readFrom base .status) s2) fun s3 =>
  andThen (now base (readFrom base .result) s3) fun s4 =>
  .next ⟨s4, answered s4, (answered s3).extractLsb' 4 4⟩

/-- A host library's reading of an error code (R217). -/
inductive CallEnd where
  | returned
  | invalidModulusError
  | notPrimeError
  /-- Codes 4 and 5: "faults of the library itself" (R217). -/
  | libraryFault
  /-- Codes 6 to 15: never produced (R201). -/
  | reservedCode
deriving DecidableEq, Repr

/-- R217: RANGE is a NotPrimeError to the host as well. -/
def callEnd (code : BitVec 4) : CallEnd :=
  match code.toNat with
  | 0 => .returned
  | 1 => .invalidModulusError
  | 2 => .notPrimeError
  | 3 => .notPrimeError
  | 4 => .libraryFault
  | 5 => .libraryFault
  | _ => .reservedCode

/-! ### The search for primitive roots -/

/-- What a search leaves: the block, and the roots found, or none for a NotPrimeError (R155). -/
structure Search where
  block : State
  roots : Option (List Nat)
deriving DecidableEq, Repr

/-- The candidates `g`, `g + 1`, …, `left` of them, in turn (R155); `out` holds the roots so far. With
`limit > 0` it stops at the `limit`-th. -/
def candidates (base limit : Nat) :
    (left g : Nat) → (out : List Nat) → State → Host.Outcome Search Fault Refusal
  | 0, _, out, s => .next ⟨s, some out⟩
  | left + 1, g, out, s =>
    andThen (now base (writeTo base .opa (BitVec.ofNat 32 g)) s) fun s1 =>
    andThen (call base .isprimroot s1) fun r =>
    if r.value = 1#32 then
      if 0 < limit ∧ (out ++ [g]).length = limit then .next ⟨r.block, some (out ++ [g])⟩
      else candidates base limit left (g + 1) (out ++ [g]) r.block
    else candidates base limit left (g + 1) out r.block

/-- The call of SAFEPRIME a search begins with (R155): it fails with NotPrimeError, or the search goes on
with what the call returned. -/
def withSafePrime (base : Nat) (p : Word) (s : State)
    (goOn : Returned → Host.Outcome Search Fault Refusal) : Host.Outcome Search Fault Refusal :=
  andThen (now base (writeTo base .opa p) s) fun s1 =>
  andThen (call base .safeprime s1) fun r =>
  if callEnd r.errcode = .notPrimeError then .next ⟨r.block, none⟩ else goOn r

/-- `findPrimitiveRoots(p, limit)` on one block (R155): SAFEPRIME, then the candidates from 1 to `n - 1`
inclusive (C2). -/
def findPrimitiveRoots (base : Nat) (p : Word) (limit : Nat) (s : State) :
    Host.Outcome Search Fault Refusal :=
  withSafePrime base p s fun r => candidates base limit (r.value.toNat - 1) 1 [] r.block

/-! ### The parallel search (R223) -/

/-- One unit's share of a parallel search: the unit's window and block, and how many candidates it tries. -/
structure Share where
  base  : Nat
  count : Nat
  block : State
deriving DecidableEq, Repr

/-- Each unit runs SAFEPRIME and then its contiguous range of candidates, the first unit's from `first`
(R223). The results are in the order of the ranges. DESIGN CHOICE (log entry 11): R223's step 1 lets the
host run SAFEPRIME on each unit, as here, or copy OPM, OPT, DIV and DIVCNT from one unit to the others. -/
def parallelSearch (p : Word) : (first : Nat) → List Share → Host.Outcome (List Search) Fault Refusal
  | _, [] => .next []
  | first, x :: xs =>
    andThen (withSafePrime x.base p x.block fun r => candidates x.base 0 x.count first [] r.block)
      fun r =>
    andThen (parallelSearch p (first + x.count) xs) fun rs => .next (r :: rs)

/-- The results concatenated in the order of the ranges (R223), or none where a unit failed. -/
def concatenated : List Search → Option (List Nat)
  | [] => some []
  | r :: rs =>
    match r.roots, concatenated rs with
    | some out, some rest => some (out ++ rest)
    | _, _ => none

end Sys2Proof.Machine.Driver
end

