-- ==== Sys2Proof/Machine/System.lean ====
section
/-! DEFINITION. Several independent units of the block (R223): `N_INSTANCES` is the length of the list
(R7). Each unit has its own window, registers, engine and interrupt output, and they share no state.
Transactions of several bus masters reach a unit's port in one merged order (R60), which is the order of
its `State.events` (log entry 9). -/

namespace Sys2Proof.Machine

/-- One unit of a system: the block, and the 256-byte page at which the platform put its window, its
only identifier (R52, R223). -/
structure SystemUnit where
  page  : Nat
  block : State
deriving DecidableEq, Repr

/-- The unit's `BASE`, a multiple of 256 (R52). -/
def SystemUnit.base (u : SystemUnit) : Nat := Config.windowBytes * u.page

/-- A system of units. -/
abbrev System := List SystemUnit

/-- The system the platform starts with windows at these pages: every unit in the reset state (R223). -/
def System.reset (pages : List Nat) : System := pages.map fun p => ⟨p, State.reset⟩

/-- Unit `k` takes its step; the others take none. -/
def System.stepUnit (sys : System) (k : Nat) : Host.Outcome System Fault Refusal :=
  match sys[k]? with
  | none => .next sys
  | some u =>
    match stepAt u.base u.block with
    | .next t => .next (sys.set k { u with block := t })
    | .fault r => .fault r
    | .refused r => .refused r

/-- The address of a transaction; the other events have none. -/
def Event.address : Event → Option Nat
  | .read addr _ => some addr
  | .write addr _ _ => some addr
  | _ => none

/-- A transaction is queued at the port of the unit whose window its address selects (R52). -/
def System.route (sys : System) (e : Event) : System :=
  match e.address with
  | none => sys
  | some addr =>
    sys.map fun u =>
      if (windowOffset u.base addr).isSome then
        { u with block := u.block.withEvents (u.block.events ++ [e]) }
      else u

/-- The interrupt outputs, one for each unit (R210, R223). -/
def System.irqs (sys : System) : List Bool := sys.map fun u => u.block.irq

end Sys2Proof.Machine
end

