-- ==== Sys2Proof/Safety.lean ====
section
/-! DEFINITION. What the spec says holds of the block at all times, collected from its prose: the
invariant `Inv` that every step keeps, and which error codes a command can leave (R201). -/

namespace Sys2Proof.Machine

/-- Which error codes the word of the last command can have left (R201, R204): the code's row names the
commands that raise it, and ILLEGAL_CMD is left by an illegal word only. -/
def codeRaisedBy (code : BitVec 4) (d : Decoded) : Prop :=
  code = 0#4 ∨
  (code = 1#4 ∧ (d = .legal .mulmod ∨ d = .legal .powmod ∨ d = .legal .mulord ∨
    d = .legal .isprimroot)) ∨
  ((code = 2#4 ∨ code = 3#4) ∧ d = .legal .safeprime) ∨
  (code = 4#4 ∧ (d = .legal .mulord ∨ d = .legal .isprimroot)) ∨
  (code = 5#4 ∧ ∃ why, d = .illegal why)

/-- The invariant of the block. -/
structure Inv (s : State) : Prop where
  /-- "STATUS.BUSY = 1 exactly when the phase is BUSY" (R43). -/
  busy_phase : s.busy = s.engine.isBusy
  /-- "BUSY and DONE are never both 1" (R34). -/
  not_busy_and_done : ¬ (s.busy = true ∧ s.done = true)
  /-- "ERR = 1 if and only if ERRCODE is not 0" (R35). -/
  err_code : s.err = true ↔ s.errcode ≠ 0#4
  /-- ERR and ERRCODE "stay 0 from acceptance to completion" (R205). -/
  busy_clear : s.busy = true → s.errcode = 0#4
  /-- LASTOP is the OP field of the last accepted word, which CMD reads back (R29, R39). -/
  lastop_cmd : s.lastop = s.cmd.extractLsb' 0 8
  /-- The snapshot's OP, S and RSV are the fields of that word (R44, R160). -/
  snap_cmd : ∀ q, s.engine = .busy q → q.cmd = CmdFields.ofWord s.cmd
  /-- ERRCODE is one that the last accepted command can raise (R201). -/
  code_raised : codeRaisedBy s.errcode (decode s.cmd)
  /-- An illegal word, once complete, has reported ILLEGAL_CMD (R77). -/
  illegal_reported : s.done = true → (∃ why, decode s.cmd = .illegal why) → s.errcode = 5#4
  /-- "While `rst_n` = 0 … every register takes the reset value" (R230). -/
  held_in_reset : s.inReset = true → s = { State.reset with
    inReset := true, events := s.events, reply := s.reply }

/-! ### What the next step is -/

/-- The next step serves a well-formed write of `v` at the offset `off` of the block's window. -/
def servesWrite (s : State) (off : Nat) (v : Word) : Prop :=
  s.inReset = false ∧ ∃ rest, s.events = .write (Config.base + off) 4 v :: rest

/-- The next step is the completion of the command the engine holds (R45). -/
def completes (s : State) : Prop :=
  s.inReset = false ∧ s.engine.isBusy = true ∧ (s.events = [] ∨ ∃ rest, s.events = .engine :: rest)

/-- The next step accepts the command word `w` (R160). -/
def accepts (s : State) (w : Word) : Prop := servesWrite s 0x10 w ∧ s.engine = .idle

/-- The next step drops a CMD write (R161). -/
def drops (s : State) : Prop := ∃ w, servesWrite s 0x10 w ∧ s.engine.isBusy = true

/-- The next step is a reset, soft (R231) or by the pin (R230). -/
def resets (s : State) : Prop :=
  (∃ v, servesWrite s 0x08 v ∧ v.getLsbD 1 = true) ∨
  (∃ rest, s.events = .resetLow :: rest) ∨
  (s.inReset = true ∧ ∃ rest, s.events = .resetHigh :: rest)

/-- `k` steps, stopping at the first fault or refusal. -/
def runSteps : (k : Nat) → State → Host.Outcome State Fault Refusal
  | 0, s => .next s
  | k + 1, s =>
    match step s with
    | .next t => runSteps k t
    | .fault r => .fault r
    | .refused r => .refused r

/-! ### The values the rules name -/

/-- R120's `prime32(n)`, as the rule words it. -/
def trialPrime (n : Nat) : Prop :=
  n = 2 ∨ (2 ≤ n ∧ n % 2 = 1 ∧ ∀ d, d % 2 = 1 → 3 ≤ d → d ≤ Nat.sqrt n → n % d ≠ 0)

/-- R130's test of the divisor at an index: its power of the reduced `r` is 1 (R106). -/
def divisorMatches (q : Snapshot) (i : Fin 8) : Prop :=
  (q.a.toNat % q.m.toNat) ^ q.div[i].toNat % q.m.toNat = 1

/-- `v` is what R130's `order` returns on the snapshot: the first divisor, in index order among those
that count, that matches, or the sentinel 0 when none does. -/
def isOrderValue (q : Snapshot) (v : Word) : Prop :=
  (∃ i : Fin 8, i.val < q.divcnt.toNat ∧ divisorMatches q i ∧ v = q.div[i] ∧
    ∀ j : Fin 8, j.val < i.val → ¬ divisorMatches q j) ∨
  ((∀ i : Fin 8, i.val < q.divcnt.toNat → ¬ divisorMatches q i) ∧ v = 0#32)

/-- The registers a host writes to give a command its operands (R22-R27). -/
def isOperandReg : Reg → Bool
  | .opa | .opb | .opm | .opt | .divcnt | .div _ => true
  | .id | .version | .ctrl | .status | .cmd | .result => false

/-- The registers a successful SAFEPRIME writes (R150, R243). -/
def isLoadedReg : Reg → Bool
  | .opm | .opt | .divcnt => true
  | .div i => decide (i.val < 4)
  | .id | .version | .ctrl | .status | .cmd | .result | .opa | .opb => false

end Sys2Proof.Machine
end

