-- ==== Sys2Proof/Certificates/Slice0/Obligations.lean ====
section
/-! DEFINITION. The statements about the model, each from the rules of spec/ that its docstring names.
`BASE` is the OPEN parameter `Config.base`: every statement holds wherever the platform puts the window. -/

open Sys2Proof Sys2Proof.Machine

/-! ## Encoding -/

/-- R71: the legal words are the eight of the word table, each with its command. -/
def Obligations.LegalWordsAreTheEightOfTheTable : Prop :=
  ∀ (w : Word) (i : Instr), decode w = .legal i ↔
    (w, i) ∈ [(0x00000000#32, Instr.nop), (0x00000001#32, Instr.mulmod),
      (0x00000002#32, Instr.powmod), (0x00000003#32, Instr.isprime),
      (0x00000103#32, Instr.isprimeS), (0x00000004#32, Instr.mulord),
      (0x00000005#32, Instr.isprimroot), (0x00000006#32, Instr.safeprime)]

/-- R77: a word is illegal exactly when one of the rule's three conditions holds; it is accepted all the
same, and its completion reports ILLEGAL_CMD with RESULT 0 and writes nothing else. Only 0 is NOP. -/
def Obligations.IllegalWordIsAcceptedAndReported : Prop :=
  (∀ w : Word, (∃ why, decode w = .illegal why) ↔
    (w.toNat / 512 ≠ 0 ∨ 7 ≤ w.toNat % 256 ∨ (w.toNat / 256 % 2 = 1 ∧ w.toNat % 256 ≠ 3))) ∧
  (∀ (s : State) (w : Word), accepts s w →
    ∃ t, step s = .next t ∧ t.busy = true ∧ t.lastop.toNat = w.toNat % 256 ∧
      t.engine = .busy (s.capture w)) ∧
  (∀ (s : State) (q : Snapshot) (why : IllegalCause), s.inReset = false → s.engine = .busy q →
    decodeFields q.cmd = .illegal why → ∀ rest, s.events = .engine :: rest →
    step s = .next { s with
      events := rest, result := 0#32, err := true, errcode := 5#4, busy := false, done := true,
      engine := .idle }) ∧
  (∀ w : Word, decode w = .legal .nop ↔ w = 0x00000000#32)

/-- R71, R74: decoding the encoded word of a command gives the command. -/
def Obligations.DecodeOfEncodeIsTheCommand : Prop :=
  ∀ i : Instr, decode (encode i) = .legal i

/-- R70: OP, S and RSV are bits 7:0, 8 and 31:9, and together they are the whole word. -/
def Obligations.CommandFieldsPartitionTheWord : Prop :=
  (∀ w : Word, (CmdFields.ofWord w).op.toNat = w.toNat % 256 ∧
    ((CmdFields.ofWord w).s = true ↔ w.toNat / 256 % 2 = 1) ∧
    (CmdFields.ofWord w).rsv.toNat = w.toNat / 512) ∧
  (∀ w : Word, (CmdFields.ofWord w).toWord = w) ∧
  (∀ c : CmdFields, CmdFields.ofWord c.toWord = c)

/-- R71, R77: the well-formed field triples are those of the words that decode to a command. -/
def Obligations.WellFormedFieldsAreTheDecodable : Prop :=
  ∀ c : CmdFields, c.wellFormed = true ↔ ∃ i, decode c.toWord = .legal i

/-- R54: lane `k` carries bits 8k+7 : 8k, and the four lanes are the word. -/
def Obligations.BusLanesAreLittleEndian : Prop :=
  ∀ w : Word, (∀ k, k < 4 → (lane w k).toNat = w.toNat / 2 ^ (8 * k) % 256) ∧
    ofLanes (lane w 0) (lane w 1) (lane w 2) (lane w 3) = w

/-! ## Registers and the bus port -/

/-- R230: what a reset leaves, in the state after reset and through the pin, and that every register and
the engine stay at those values while `rst_n` is 0. That the pin is two events is log entry 6's choice, and
that an edge clears the answer held in `reply` is log entry 3's. -/
def Obligations.ResetLeavesTheResetValues : Prop :=
  (State.reset.readReg .id = 0x4D4D3332#32 ∧ State.reset.readReg .version = 0x00000001#32 ∧
    (∀ r : Reg, r ≠ .id → r ≠ .version → State.reset.readReg r = 0#32) ∧
    State.reset.engine = .idle ∧ State.reset.irq = false) ∧
  (∀ (s : State) (rest : List Event), s.events = .resetLow :: rest →
    step s = .next { State.reset with inReset := true, events := rest }) ∧
  (∀ (s : State) (rest : List Event), s.inReset = true → s.events = .resetHigh :: rest →
    step s = .next { State.reset with events := rest }) ∧
  (∀ s t : State, Inv s → s.inReset = true → step s = .next t →
    (∀ r, t.readReg r = State.reset.readReg r) ∧ t.engine = .idle ∧ t.irq = false)

/-- R20, R51: every register has an offset of its own, a multiple of 4 inside the window. -/
def Obligations.RegisterOffsetsAreDistinctWords : Prop :=
  ∀ (r : Reg) (off : Nat), (regAt off = some r ↔ off = r.offset) ∧ r.offset % 4 = 0 ∧
    r.offset < 256

/-- R164: a well-formed read returns the value the rule's table gives for its offset, and has no side
effect: nothing but the answer changes. -/
def Obligations.RegisterReadReturnsTheTableValue : Prop :=
  (∀ (s : State) (off : Nat) (rest : List Event), s.inReset = false → off < 256 → off % 4 = 0 →
    s.events = .read (Config.base + off) 4 :: rest →
    step s = .next { s with events := rest, reply := some (.data (s.readOffset off)) }) ∧
  (∀ s : State, s.readOffset 0x00 = 0x4D4D3332#32 ∧ s.readOffset 0x04 = 0x00000001#32 ∧
    s.readOffset 0x08 = (if s.ie then 1#32 else 0#32) ∧ s.readOffset 0x0C = s.statusWord ∧
    s.readOffset 0x10 = s.cmd ∧ s.readOffset 0x14 = s.result ∧
    (s.readOffset 0x18).toNat = s.divcnt.toNat ∧ s.readOffset 0x20 = s.opa ∧
    s.readOffset 0x24 = s.opb ∧ s.readOffset 0x28 = s.opm ∧ s.readOffset 0x2C = s.opt ∧
    (∀ i : Fin 8, s.readOffset (0x40 + 4 * i.val) = s.div[i]) ∧
    (∀ off, off ∉ [0x00, 0x04, 0x08, 0x0C, 0x10, 0x14, 0x18, 0x20, 0x24, 0x28, 0x2C] →
      (∀ i : Fin 8, off ≠ 0x40 + 4 * i.val) → s.readOffset off = 0#32))

/-- R32, R167: the places of the STATUS fields in the word, and what a STATUS write does. -/
def Obligations.StatusFieldsAndStatusWrite : Prop :=
  (∀ s : State, s.statusWord.getLsbD 0 = s.busy ∧ s.statusWord.getLsbD 1 = s.done ∧
    s.statusWord.getLsbD 2 = s.err ∧ s.statusWord.getLsbD 3 = s.ovr ∧
    s.statusWord.extractLsb' 4 4 = s.errcode ∧ s.statusWord.extractLsb' 8 8 = s.lastop ∧
    s.statusWord.extractLsb' 16 16 = 0#16) ∧
  (∀ (s : State) (v : Word) (rest : List Event), s.inReset = false →
    s.events = .write (Config.base + 0x0C) 4 v :: rest →
    step s = .next { s with
      events := rest, reply := some .done
      done := if v.getLsbD 1 = true ∧ s.busy = false then false else s.done
      ovr := if v.getLsbD 3 = true then false else s.ovr })

/-- R55: any access that is not an aligned 32-bit one gets a bus error, and no register, STATUS bit or
interrupt changes. -/
def Obligations.MalformedAccessIsABusErrorOnly : Prop :=
  ∀ (s : State) (off size : Nat) (v : Word) (rest : List Event),
    s.inReset = false → off < 256 → (size ≠ 4 ∨ off % 4 ≠ 0) →
    (s.events = .read (Config.base + off) size :: rest ∨
      s.events = .write (Config.base + off) size v :: rest) →
    step s = .next { s with events := rest, reply := some .busError }

/-- R53: reserved offsets read 0 and ignore writes, without a bus error; so do the reserved bits of
CTRL, STATUS and DIVCNT. -/
def Obligations.ReservedOffsetsAndBitsReadZeroIgnoreWrites : Prop :=
  (∀ (s : State) (off : Nat) (v : Word) (rest : List Event), s.inReset = false → off % 4 = 0 →
    (off = 0x1C ∨ (0x30 ≤ off ∧ off ≤ 0x3C) ∨ (0x60 ≤ off ∧ off ≤ 0xFC)) →
    (s.events = .read (Config.base + off) 4 :: rest →
      step s = .next { s with events := rest, reply := some (.data 0#32) }) ∧
    (s.events = .write (Config.base + off) 4 v :: rest →
      step s = .next { s with events := rest, reply := some .done })) ∧
  (∀ s : State, (s.readReg .ctrl).toNat < 2 ∧ (s.readReg .status).toNat < 2 ^ 16 ∧
    (s.readReg .divcnt).toNat < 16) ∧
  (∀ (s : State) (v w : Word),
    (v.toNat % 4 = w.toNat % 4 → s.writeReg .ctrl v = s.writeReg .ctrl w) ∧
    (v.toNat % 16 = w.toNat % 16 → s.writeReg .status v = s.writeReg .status w) ∧
    (v.toNat % 16 = w.toNat % 16 → s.writeReg .divcnt v = s.writeReg .divcnt w))

/-- R21: writes to ID, VERSION and RESULT complete without a bus error and change no state. -/
def Obligations.ReadOnlyRegistersIgnoreWrites : Prop :=
  ∀ (s : State) (r : Reg) (v : Word) (rest : List Event), s.inReset = false →
    (r = .id ∨ r = .version ∨ r = .result) →
    s.events = .write (Config.base + r.offset) 4 v :: rest →
    step s = .next { s with events := rest, reply := some .done }

/-- R22-R27, R165: a write to an operand register, a divisor register or DIVCNT stores its value (the low
4 bits for DIVCNT) in either phase, and every other register, the engine and the interrupt stay. -/
def Obligations.OperandWriteStoresAndLeavesTheRest : Prop :=
  ∀ (s : State) (r : Reg) (v : Word) (rest : List Event), s.inReset = false →
    isOperandReg r = true → s.events = .write (Config.base + r.offset) 4 v :: rest →
    ∃ t, step s = .next t ∧
      t.readReg r = (if r = .divcnt then v &&& 0xF#32 else v) ∧
      (∀ r', r' ≠ r → t.readReg r' = s.readReg r') ∧
      t.engine = s.engine ∧ t.irq = s.irq ∧ t.inReset = false ∧ t.events = rest ∧
      t.reply = some .done

/-- R31, R166, R231: a CTRL write with bit 1 set is a soft reset, which ends with IE = 0 and abandons a
BUSY command; any other CTRL write only sets IE. -/
def Obligations.CtrlWriteSetsIeOrSoftResets : Prop :=
  ∀ (s : State) (v : Word) (rest : List Event), s.inReset = false →
    s.events = .write (Config.base + 0x08) 4 v :: rest →
    step s = .next (if v.getLsbD 1 = true
      then { State.reset with events := rest, reply := some .done }
      else { s with ie := v.getLsbD 0, events := rest, reply := some .done })

/-- R160: a CMD write while the phase is IDLE accepts the word, whatever it is, in one event: the
snapshot of the operand registers is taken and STATUS is set; RESULT and the registers stay. -/
def Obligations.CmdWriteWhileIdleIsAccepted : Prop :=
  ∀ (s : State) (w : Word) (rest : List Event), s.inReset = false → s.engine = .idle →
    s.events = .write (Config.base + 0x10) 4 w :: rest →
    ∃ t, step s = .next t ∧ t = { s with
        cmd := w, lastop := w.extractLsb' 0 8, err := false, errcode := 0#4, done := false
        busy := true
        engine := .busy
          { cmd := ⟨w.extractLsb' 0 8, w.getLsbD 8, w.extractLsb' 9 23⟩
            a := s.opa, b := s.opb, m := s.opm, t := s.opt, divcnt := s.divcnt, div := s.div }
        events := rest, reply := some .done } ∧ t.irq = false

/-- R161: a CMD write while the phase is BUSY is dropped: it sets OVR, completes on the bus, and nothing
else changes. -/
def Obligations.CmdWriteWhileBusyIsDropped : Prop :=
  ∀ (s : State) (q : Snapshot) (w : Word) (rest : List Event), s.inReset = false →
    s.engine = .busy q → s.events = .write (Config.base + 0x10) 4 w :: rest →
    step s = .next { s with ovr := true, events := rest, reply := some .done }

/-- R52: a transaction whose address lies outside the window does not select the block. That its state
then stays as it is, and that it gives no answer, is the model's reading (log entries 3 and 7). -/
def Obligations.UnselectedAddressLeavesTheBlock : Prop :=
  ∀ (s : State) (addr size : Nat) (v : Word) (rest : List Event),
    (addr < Config.base ∨ Config.base + 256 ≤ addr) →
    (s.events = .read addr size :: rest ∨ s.events = .write addr size v :: rest) →
    step s = .next { s with events := rest, reply := none }

/-- R232: a transaction to the block while `rst_n` is 0 has no defined outcome, and the model refuses
it by name (log entry 6). -/
def Obligations.TransactionDuringResetIsRefused : Prop :=
  ∀ (s : State) (off size : Nat) (v : Word) (rest : List Event), s.inReset = true → off < 256 →
    (s.events = .read (Config.base + off) size :: rest ∨
      s.events = .write (Config.base + off) size v :: rest) →
    step s = .refused .transactionDuringReset

/-! ## The commands -/

/-- R162: the completion step decodes the snapshot's word and runs the command it names, and an ILLEGAL
word raises IllegalCmd(0). It comes at the engine's turn, and when no event is left (log entry 1). The last
clause says the same of the word that `withFetchWord` gives the block (log entry 4). -/
def Obligations.StepRunsTheDecodedCommand : Prop :=
  (∀ (s : State) (q : Snapshot) (i : Instr), s.inReset = false → s.engine = .busy q →
    decodeFields q.cmd = .legal i →
    (∀ rest, s.events = .engine :: rest → step s = exec i { s with events := rest }) ∧
    (s.events = [] → step s = exec i s)) ∧
  (∀ (s : State) (q : Snapshot) (why : IllegalCause), s.inReset = false → s.engine = .busy q →
    decodeFields q.cmd = .illegal why →
    (∀ rest, s.events = .engine :: rest →
      step s = .next (State.raise { s with events := rest } .illegalCmd 0#32)) ∧
    (s.events = [] → step s = .next (s.raise .illegalCmd 0#32))) ∧
  (∀ (s : State) (w : Word) (i : Instr), decode w = .legal i →
    step (s.withFetchWord 32 w.toNat) =
      exec i { s.withFetchWord 32 w.toNat with events := s.events })

/-- R163: NOP keeps RESULT and clears ERR and ERRCODE. -/
def Obligations.NopKeepsResultAndClearsTheError : Prop :=
  decode 0x00000000#32 = .legal .nop ∧
  ∀ (s : State) (q : Snapshot), s.engine = .busy q →
    exec .nop s = .next { s with
      err := false, errcode := 0#4, busy := false, done := true, engine := .idle }

/-- R100: MULMOD's result is the exact product reduced by the modulus, and a modulus of 0 is
INVALID_MODULUS. -/
def Obligations.MulmodResultIsTheReducedProduct : Prop :=
  decode 0x00000001#32 = .legal .mulmod ∧
  ∀ (s : State) (q : Snapshot), s.engine = .busy q →
    (q.m = 0#32 → exec .mulmod s = .next { s with
      result := 0#32, err := true, errcode := 1#4, busy := false, done := true
      engine := .idle }) ∧
    (q.m ≠ 0#32 → ∃ v : Word, v.toNat = q.a.toNat * q.b.toNat % q.m.toNat ∧
      exec .mulmod s = .next { s with
        result := v, err := false, errcode := 0#4, busy := false, done := true
        engine := .idle })

/-- R106: POWMOD's result is the power reduced by the modulus, `0^0` being 1, and a modulus of 0 is
INVALID_MODULUS. -/
def Obligations.PowmodResultIsTheReducedPower : Prop :=
  decode 0x00000002#32 = .legal .powmod ∧
  ∀ (s : State) (q : Snapshot), s.engine = .busy q →
    (q.m = 0#32 → exec .powmod s = .next { s with
      result := 0#32, err := true, errcode := 1#4, busy := false, done := true
      engine := .idle }) ∧
    (q.m ≠ 0#32 → ∃ v : Word, v.toNat = (q.a.toNat % q.m.toNat) ^ q.b.toNat % q.m.toNat ∧
      exec .powmod s = .next { s with
        result := v, err := false, errcode := 0#4, busy := false, done := true
        engine := .idle })

/-- R120: ISPRIME's result is 1 exactly when the unsigned operand passes the rule's trial division, else
0, and it never raises an error. -/
def Obligations.IsprimeResultIsTheTrialDivision : Prop :=
  decode 0x00000003#32 = .legal .isprime ∧
  ∀ (s : State) (q : Snapshot), s.engine = .busy q →
    ∃ v : Word, ((v = 1#32 ∧ trialPrime q.a.toNat) ∨ (v = 0#32 ∧ ¬ trialPrime q.a.toNat)) ∧
      exec .isprime s = .next { s with
        result := v, err := false, errcode := 0#4, busy := false, done := true
        engine := .idle }

/-- R121: ISPRIME.S reads the operand as `int32`: 1 exactly when that integer is 2 or more and its
value passes the trial division, else 0. -/
def Obligations.IsprimeSResultReadsASignedOperand : Prop :=
  decode 0x00000103#32 = .legal .isprimeS ∧
  ∀ (s : State) (q : Snapshot), s.engine = .busy q →
    ∃ v : Word, ((v = 1#32 ∧ 0 ≤ q.a.toInt ∧ trialPrime q.a.toInt.toNat) ∨
        (v = 0#32 ∧ (q.a.toInt < 0 ∨ ¬ trialPrime q.a.toInt.toNat))) ∧
      exec .isprimeS s = .next { s with
        result := v, err := false, errcode := 0#4, busy := false, done := true
        engine := .idle }

/-- R130, R132: MULORD's result is the first matching divisor in index order, or the sentinel 0; a
modulus of 0 is INVALID_MODULUS, and then a DIVCNT above 8 is BAD_DIVCNT. -/
def Obligations.MulordResultIsTheFirstMatchingDivisor : Prop :=
  decode 0x00000004#32 = .legal .mulord ∧
  ∀ (s : State) (q : Snapshot), s.engine = .busy q →
    (q.m = 0#32 → exec .mulord s = .next { s with
      result := 0#32, err := true, errcode := 1#4, busy := false, done := true
      engine := .idle }) ∧
    (q.m ≠ 0#32 → 8 < q.divcnt.toNat → exec .mulord s = .next { s with
      result := 0#32, err := true, errcode := 4#4, busy := false, done := true
      engine := .idle }) ∧
    (q.m ≠ 0#32 → q.divcnt.toNat ≤ 8 → ∃ v : Word, isOrderValue q v ∧
      exec .mulord s = .next { s with
        result := v, err := false, errcode := 0#4, busy := false, done := true
        engine := .idle })

/-- R135, R136: ISPRIMROOT compares that value literally with the totient operand, the sentinel 0
included, with MULORD's errors. -/
def Obligations.IsprimrootComparesTheOrderWithTheTotient : Prop :=
  decode 0x00000005#32 = .legal .isprimroot ∧
  ∀ (s : State) (q : Snapshot), s.engine = .busy q →
    (q.m = 0#32 → exec .isprimroot s = .next { s with
      result := 0#32, err := true, errcode := 1#4, busy := false, done := true
      engine := .idle }) ∧
    (q.m ≠ 0#32 → 8 < q.divcnt.toNat → exec .isprimroot s = .next { s with
      result := 0#32, err := true, errcode := 4#4, busy := false, done := true
      engine := .idle }) ∧
    (q.m ≠ 0#32 → q.divcnt.toNat ≤ 8 → ∃ v : Word, isOrderValue q v ∧
      exec .isprimroot s = .next { s with
        result := (if v = q.t then 1#32 else 0#32), err := false, errcode := 0#4, busy := false
        done := true, engine := .idle })

/-- R150-R154: SAFEPRIME's three ends. RANGE for `p >= 2^31`; NOT_PRIME with the mask of both checks, and
no register but RESULT and STATUS written; success with the safe prime, and OPM, OPT, DIV(0..3) and DIVCNT
loaded, three divisors for `p = 2`. -/
def Obligations.SafeprimeDerivesChecksAndLoads : Prop :=
  decode 0x00000006#32 = .legal .safeprime ∧
  ∀ (s : State) (q : Snapshot), s.engine = .busy q →
    (2 ^ 31 ≤ q.a.toNat → exec .safeprime s = .next { s with
      result := 0#32, err := true, errcode := 3#4, busy := false, done := true
      engine := .idle }) ∧
    (q.a.toNat < 2 ^ 31 → ¬ (trialPrime (2 * q.a.toNat + 1) ∧ trialPrime q.a.toNat) →
      ∃ mask : Word, mask.toNat < 4 ∧
        (mask.getLsbD 0 = true ↔ ¬ trialPrime (2 * q.a.toNat + 1)) ∧
        (mask.getLsbD 1 = true ↔ ¬ trialPrime q.a.toNat) ∧
        exec .safeprime s = .next { s with
          result := mask, err := true, errcode := 2#4, busy := false, done := true
          engine := .idle }) ∧
    (q.a.toNat < 2 ^ 31 → trialPrime (2 * q.a.toNat + 1) → trialPrime q.a.toNat →
      ∃ n totient d2 d3 : Word, ∃ cnt : BitVec 4,
        n.toNat = 2 * q.a.toNat + 1 ∧ totient.toNat = 2 * q.a.toNat ∧
        (q.a = 2#32 → d2 = 4#32 ∧ d3 = 0#32 ∧ cnt = 3#4) ∧
        (q.a ≠ 2#32 → d2 = q.a ∧ d3 = totient ∧ cnt = 4#4) ∧
        exec .safeprime s = .next { s with
          result := n, opm := n, opt := totient, divcnt := cnt
          div := #v[1#32, 2#32, d2, d3, s.div[4], s.div[5], s.div[6], s.div[7]]
          err := false, errcode := 0#4, busy := false, done := true, engine := .idle })

/-- R201, R204: the error code of every command is that of the highest-ranked condition that holds, and
ERR says whether there is one. -/
def Obligations.ErrorCodeIsTheHighestRankedCondition : Prop :=
  ∀ (i : Instr) (s : State) (q : Snapshot), s.engine = .busy q →
    ∃ t, exec i s = .next t ∧ t.err = (t.errcode != 0#4) ∧
      match i with
      | .nop | .isprime | .isprimeS => t.errcode = 0#4
      | .mulmod | .powmod => t.errcode = if q.m = 0#32 then 1#4 else 0#4
      | .mulord | .isprimroot => t.errcode =
          if q.m = 0#32 then 1#4 else if 8 < q.divcnt.toNat then 4#4 else 0#4
      | .safeprime =>
          (2 ^ 31 ≤ q.a.toNat → t.errcode = 3#4) ∧
          (q.a.toNat < 2 ^ 31 →
            ((trialPrime (2 * q.a.toNat + 1) ∧ trialPrime q.a.toNat) → t.errcode = 0#4) ∧
            (¬ (trialPrime (2 * q.a.toNat + 1) ∧ trialPrime q.a.toNat) → t.errcode = 2#4))

/-- R203: a completion that reports an error writes RESULT = 0, or for NOT_PRIME a mask that is not 0,
and no register other than RESULT and STATUS. Here the step of every word, legal or not. -/
def Obligations.ErroredCommandWritesOnlyResultAndStatus : Prop :=
  ∀ (s t : State) (rest : List Event), completes s → s.events = .engine :: rest →
    step s = .next t → t.err = true →
    (t.errcode ≠ 2#4 → t.result = 0#32) ∧
    (t.errcode = 2#4 → t.result = 1#32 ∨ t.result = 2#32 ∨ t.result = 3#32) ∧
    t = { s with
      events := rest, result := t.result, err := true, errcode := t.errcode, busy := false
      done := true, engine := .idle }

/-- R22, R23, R26, R75: the frame of a completion. OPA, OPB, CTRL, CMD, LASTOP, OVR, DIV(4..7), the reset
pin and the port stay for every command; OPM, OPT, DIVCNT and DIV(0..3) stay unless the command is a
SAFEPRIME without error; RESULT stays for NOP. -/
def Obligations.CompletionFrame : Prop :=
  ∀ (i : Instr) (s t : State), exec i s = .next t →
    (t.opa = s.opa ∧ t.opb = s.opb ∧ t.ie = s.ie ∧ t.cmd = s.cmd ∧ t.lastop = s.lastop ∧
      t.ovr = s.ovr ∧ t.inReset = s.inReset ∧ t.events = s.events ∧ t.reply = s.reply ∧
      t.div[4] = s.div[4] ∧ t.div[5] = s.div[5] ∧ t.div[6] = s.div[6] ∧ t.div[7] = s.div[7]) ∧
    (i ≠ .safeprime ∨ t.err = true →
      t.opm = s.opm ∧ t.opt = s.opt ∧ t.divcnt = s.divcnt ∧ t.div = s.div) ∧
    (i = .nop → t.result = s.result) ∧
    t.busy = false ∧ t.done = true ∧ t.engine = .idle

/-- R48: but for NOP, which keeps RESULT, how a command ends is a function of its snapshot alone. -/
def Obligations.OutcomeDependsOnTheSnapshotOnly : Prop :=
  ∀ (i : Instr) (q : Snapshot), i ≠ .nop → ∃ o : CommandOutcome, ∀ s : State,
    s.engine = .busy q → exec i s = .next (s.conclude o)

/-! ## The numeric laws -/

/-- R108: POWMOD with exponent 0 gives 1 for a modulus above 1, and 0 for modulus 1; every exponent gives
0 for modulus 1. -/
def Obligations.PowmodOfExponentZero : Prop :=
  ∀ (s : State) (q : Snapshot), s.engine = .busy q →
    (q.b = 0#32 → 1 < q.m.toNat → ∃ t, exec .powmod s = .next t ∧ t.result = 1#32 ∧
      t.err = false) ∧
    (q.m = 1#32 → ∃ t, exec .powmod s = .next t ∧ t.result = 0#32 ∧ t.err = false)

/-- R123: ISPRIME decides primality. -/
def Obligations.IsprimeDecidesPrimality : Prop :=
  ∀ (s : State) (q : Snapshot), s.engine = .busy q →
    ∃ t, exec .isprime s = .next t ∧ (t.result = 1#32 ↔ q.a.toNat.Prime) ∧
      (t.result = 0#32 ↔ ¬ q.a.toNat.Prime)

/-- R106, and the source's Fermat property (95_test_vectors.md S3). -/
def Obligations.PowmodFermatProperty : Prop :=
  ∀ (s : State) (q : Snapshot), s.engine = .busy q → q.m.toNat.Prime → 1 ≤ q.a.toNat →
    q.a.toNat < q.m.toNat → q.b.toNat = q.m.toNat - 1 →
    ∃ t, exec .powmod s = .next t ∧ t.result = 1#32 ∧ t.err = false

/-- R134: corner cases of the order. Modulus 1 gives 0; an `r` that reduces to 0 gives 0; a divisor 0 with
a modulus above 1 ends the scan, and the result is 0 unless an earlier divisor matches; an empty sequence
gives 0; only `r mod n` matters. -/
def Obligations.MulordCornerCases : Prop :=
  ∀ (s : State) (q : Snapshot), s.engine = .busy q → q.m ≠ 0#32 → q.divcnt.toNat ≤ 8 →
    ∃ t, exec .mulord s = .next t ∧
      (q.m = 1#32 → t.result = 0#32) ∧
      (q.a.toNat % q.m.toNat = 0 → t.result = 0#32) ∧
      (q.divcnt = 0#4 → t.result = 0#32) ∧
      (∀ i : Fin 8, i.val < q.divcnt.toNat → q.div[i] = 0#32 → 1 < q.m.toNat →
        t.result = 0#32 ∨ ∃ j : Fin 8, j.val < i.val ∧ divisorMatches q j ∧
          t.result = q.div[j]) ∧
      (∀ (u : State) (a : Word), a.toNat % q.m.toNat = q.a.toNat % q.m.toNat →
        u.engine = .busy { q with a := a } →
        ∃ u', exec .mulord u = .next u' ∧ u'.result = t.result)

/-- R137: on what SAFEPRIME loads for `p`, MULORD never gives the sentinel for an `r` that is not 0 modulo
`n = 2p + 1`, and its value is the true multiplicative order of `r`, one of 1, 2, p and n - 1. -/
def Obligations.SafePrimeOrderIsTheMultiplicativeOrder : Prop :=
  ∀ (s u : State) (q : Snapshot) (p : Nat) (w : Word), p.Prime → (2 * p + 1).Prime → p < 2 ^ 31 →
    s.engine = .busy q → q = (u.load (orderLoad p)).capture w →
    q.a.toNat % (2 * p + 1) ≠ 0 →
    ∃ t, exec .mulord s = .next t ∧ t.err = false ∧
      t.result.toNat = orderOf (q.a.toNat : ZMod (2 * p + 1)) ∧ t.result ≠ 0#32 ∧
      (t.result.toNat = 1 ∨ t.result.toNat = 2 ∨ t.result.toNat = p ∨ t.result.toNat = 2 * p)

/-- R156: on what SAFEPRIME loads for `p`, ISPRIMROOT is 1 for `φ(n - 1)` of the candidates from 1 to
`n - 1`: `p - 1` of them for an odd `p`, and 2 for `p = 2`. -/
def Obligations.NumberOfPrimitiveRoots : Prop :=
  ∀ (u : State) (p : Nat), p.Prime → (2 * p + 1).Prime → p < 2 ^ 31 →
    ((Finset.Icc 1 (2 * p)).filter fun g =>
      isprimrootRule (State.capture { u.load (orderLoad p) with opa := u32 g } 5#32) =
        .complete 1#32).card = if p = 2 then 2 else p - 1

/-! ## The reference datapath -/

/-- R104: the modular adder is exact: no sum is lost to a wrap. -/
def Obligations.ModularAdderIsExact : Prop :=
  ∀ x y m : Word, x.toNat < m.toNat → y.toNat < m.toNat →
    (Datapath.addmod x y m).toNat =
      (if m.toNat ≤ x.toNat + y.toNat then x.toNat + y.toNat - m.toNat else x.toNat + y.toNat) ∧
    (Datapath.addmod x y m).toNat < m.toNat

/-- R101-R104, R110: the MULMOD datapath returns R100's value for every operand triple. -/
def Obligations.MulmodDatapathReturnsTheProduct : Prop :=
  ∀ a b m : Word, m ≠ 0#32 →
    (Datapath.mulmod a b m).value.toNat = a.toNat * b.toNat % m.toNat

/-- R107, R110: the POWMOD datapath, all of whose products go through the MULMOD datapath, returns R106's
value for every operand triple. -/
def Obligations.PowmodDatapathReturnsThePower : Prop :=
  ∀ b e m : Word, m ≠ 0#32 →
    (Datapath.powmod b e m).value.toNat = (b.toNat % m.toNat) ^ e.toNat % m.toNat

/-- R122, R130: the trial-division datapath in 33 bits and the divisor scan return what the commands
return. -/
def Obligations.TrialAndOrderDatapathsAgree : Prop :=
  (∀ n : Word, (Datapath.prime32 n).value = Numeric.prime32 n) ∧
  (∀ (r n : Word) (ds : List Word), n ≠ 0#32 → (Datapath.order r n ds).value.toNat =
    Numeric.order r.toNat n.toNat (ds.map BitVec.toNat))

/-- R251: no loop iteration on the fast path, and on the slow path at most one for each bit of the smaller
reduced operand, so at most 32. -/
def Obligations.MulmodIterationBound : Prop :=
  ∀ a b m : Word, m ≠ 0#32 →
    ((a % m).toNat ≤ 0xFFFF → (b % m).toNat ≤ 0xFFFF → (Datapath.mulmod a b m).steps = 0) ∧
    (Datapath.mulmod a b m).steps ≤ Datapath.bitLength (if b % m < a % m then b % m else a % m) ∧
    (Datapath.mulmod a b m).steps ≤ 32

/-- R252: POWMOD makes exactly `bitlength(exp) + popcount(exp)` MULMODs, at most 64. -/
def Obligations.PowmodMultiplicationCount : Prop :=
  ∀ b e m : Word, (Datapath.powmod b e m).steps = Datapath.bitLength e + Datapath.popCount e ∧
    (Datapath.powmod b e m).steps ≤ 64

/-- R253, R254, R255: at most 32767 trial divisions for ISPRIME, 512 MULMODs for MULORD and ISPRIMROOT
with DIVCNT <= 8, and 65534 trial divisions for SAFEPRIME. -/
def Obligations.TrialAndOrderStepBounds : Prop :=
  (∀ n : Word, (Datapath.prime32 n).steps ≤ 32767) ∧
  (∀ (r n : Word) (ds : List Word), ds.length ≤ 8 → (Datapath.order r n ds).steps ≤ 512) ∧
  (∀ p : Word, p.toNat < 2 ^ 31 → (Datapath.safePrimeChecks p).steps ≤ 65534)

/-! ## The whole machine -/

/-- The invariant holds after reset. -/
def Obligations.InvariantHoldsAfterReset : Prop := Inv State.reset

/-- Every step keeps the invariant: BUSY says the phase and never stands with DONE, ERR says whether
ERRCODE is 0, both are clear while BUSY, LASTOP and the snapshot hold the last accepted word, ERRCODE is one
that its command can raise, and everything is at its reset value while `rst_n` is 0. -/
def Obligations.EveryStepKeepsTheInvariant : Prop :=
  ∀ s t : State, Inv s → step s = .next t → Inv t

/-- R43: STATUS.BUSY says the phase; acceptance, completion and a reset move it, and nothing else does. -/
def Obligations.PhaseMovesOnlyByAcceptanceCompletionReset : Prop :=
  State.reset.engine = .idle ∧
  (∀ s : State, Inv s → (s.busy = true ↔ ∃ q, s.engine = .busy q)) ∧
  (∀ (s : State) (w : Word), accepts s w → ∃ t, step s = .next t ∧ t.engine.isBusy = true) ∧
  (∀ s : State, completes s → ∃ t, step s = .next t ∧ t.engine = .idle) ∧
  (∀ s : State, resets s → ∃ t, step s = .next t ∧ t.engine = .idle) ∧
  (∀ s t : State, step s = .next t → t.engine ≠ s.engine →
    (∃ w, accepts s w) ∨ completes s ∨ resets s)

/-- R38: a CMD write while BUSY = 1 sets OVR and touches neither ERR, ERRCODE nor the interrupt; nothing
else sets OVR, and only a STATUS write with bit 3 set or a reset clears it. -/
def Obligations.OvrIsSetByADropAndClearedByWriteOrReset : Prop :=
  ∀ s : State, Inv s →
    (∀ w, servesWrite s 0x10 w → s.busy = true → ∃ t, step s = .next t ∧ t.ovr = true ∧
      t.err = s.err ∧ t.errcode = s.errcode ∧ t.irq = s.irq) ∧
    (∀ t, step s = .next t → s.ovr = false → t.ovr = true →
      s.busy = true ∧ ∃ w, servesWrite s 0x10 w) ∧
    (∀ t, step s = .next t → s.ovr = true → t.ovr = false →
      (∃ v, servesWrite s 0x0C v ∧ v.getLsbD 3 = true) ∨ resets s)

/-- R29, R39: LASTOP and the CMD readback take the accepted word, illegal words included; a dropped word
changes neither, and nothing but acceptance and reset writes them. -/
def Obligations.CommandRecordFollowsAcceptance : Prop :=
  (∀ (s : State) (w : Word), accepts s w → ∃ t, step s = .next t ∧ t.cmd = w ∧
    t.lastop.toNat = w.toNat % 256) ∧
  (∀ s : State, drops s → ∃ t, step s = .next t ∧ t.cmd = s.cmd ∧ t.lastop = s.lastop) ∧
  (∀ s t : State, step s = .next t → (t.cmd ≠ s.cmd ∨ t.lastop ≠ s.lastop) →
    (∃ w, accepts s w ∧ t.cmd = w) ∨ (resets s ∧ t.cmd = 0#32 ∧ t.lastop = 0#8)) ∧
  (∀ s t : State, step s = .next t → s.engine = .idle → t.engine.isBusy = true →
    ∃ w, accepts s w)

/-- R34, R35: DONE is cleared by acceptance, set by completion, and cleared by a STATUS write with bit 1
set; besides these only a reset changes it. ERR and ERRCODE change only at acceptance, to 0, at
completion and at a reset. -/
def Obligations.DoneAndErrorChangeOnlyAsStated : Prop :=
  (∀ (s : State) (w : Word), accepts s w → ∃ t, step s = .next t ∧ t.done = false ∧
    t.err = false ∧ t.errcode = 0#4) ∧
  (∀ s : State, completes s → ∃ t, step s = .next t ∧ t.done = true ∧
    t.err = (t.errcode != 0#4)) ∧
  (∀ (s : State) (v : Word), Inv s → servesWrite s 0x0C v → v.getLsbD 1 = true →
    ∃ t, step s = .next t ∧ t.done = false) ∧
  (∀ s t : State, step s = .next t → t.done ≠ s.done →
    (∃ w, accepts s w) ∨ completes s ∨ (∃ v, servesWrite s 0x0C v ∧ v.getLsbD 1 = true) ∨
      resets s) ∧
  (∀ s t : State, step s = .next t → (t.err ≠ s.err ∨ t.errcode ≠ s.errcode) →
    (∃ w, accepts s w) ∨ completes s ∨ resets s)

/-- R28, R240: RESULT is written by a completion only, and by a reset, which leaves 0 (R230). -/
def Obligations.ResultIsWrittenByCompletionOnly : Prop :=
  ∀ s t : State, step s = .next t → t.result ≠ s.result →
    completes s ∨ (resets s ∧ t.result = 0#32)

/-- R210, R211: `irq` is DONE AND IE. It rises only at a completion while IE = 1, or when IE is set while
DONE = 1; it falls only when DONE is cleared by a STATUS write, at an acceptance, at a reset, or when IE
is cleared, which leaves DONE. -/
def Obligations.InterruptRisesAndFallsAsStated : Prop :=
  (∀ s : State, s.irq = true ↔ s.done = true ∧ s.ie = true) ∧
  (∀ s : State, completes s → s.ie = true → ∃ t, step s = .next t ∧ t.irq = true) ∧
  (∀ (s : State) (v : Word), servesWrite s 0x08 v → v.getLsbD 1 = false →
    ∃ t, step s = .next t ∧ t.done = s.done ∧ t.irq = (s.done && v.getLsbD 0)) ∧
  (∀ s t : State, step s = .next t → s.irq = false → t.irq = true →
    (completes s ∧ s.ie = true) ∨
    (s.done = true ∧ ∃ v, servesWrite s 0x08 v ∧ v.getLsbD 1 = false ∧ v.getLsbD 0 = true)) ∧
  (∀ s t : State, step s = .next t → s.irq = true → t.irq = false →
    (∃ v, servesWrite s 0x0C v ∧ v.getLsbD 1 = true) ∨ (∃ w, accepts s w) ∨ resets s ∨
    (t.done = true ∧ ∃ v, servesWrite s 0x08 v ∧ v.getLsbD 1 = false ∧ v.getLsbD 0 = false))

/-- R44, R242: an operand write between acceptance and completion does not change the command: with and
without it, RESULT, the error and every register but the written one are the same, those a SAFEPRIME loads
among them. -/
def Obligations.OperandWriteWhileBusyDoesNotReachTheCommand : Prop :=
  ∀ (s : State) (r : Reg) (v : Word), Inv s → s.inReset = false → s.engine.isBusy = true →
    isOperandReg r = true →
    ∃ t t' : State,
      runSteps 1 (s.withEvents [.engine]) = .next t ∧
      runSteps 2 (s.withEvents [.write (Config.base + r.offset) 4 v, .engine]) = .next t' ∧
      t'.result = t.result ∧ t'.err = t.err ∧ t'.errcode = t.errcode ∧ t'.busy = t.busy ∧
      t'.done = t.done ∧ (∀ r', r' ≠ r → t'.readReg r' = t.readReg r')

/-- R243: a host write that races a successful SAFEPRIME. With the write first, every register ends as
SAFEPRIME leaves it; with the completion first, the register ends with the host's value. -/
def Obligations.SafeprimeRaceAdmitsBothOutcomes : Prop :=
  ∀ (s : State) (q : Snapshot) (r : Reg) (v : Word), s.inReset = false → s.engine = .busy q →
    q.cmd = Instr.safeprime.fields → q.a.toNat < 2 ^ 31 → q.a.toNat.Prime →
    (2 * q.a.toNat + 1).Prime → isLoadedReg r = true →
    ∃ t first last : State,
      runSteps 1 (s.withEvents [.engine]) = .next t ∧ t.err = false ∧
      runSteps 2 (s.withEvents [.write (Config.base + r.offset) 4 v, .engine]) = .next first ∧
      (∀ r', first.readReg r' = t.readReg r') ∧
      runSteps 2 (s.withEvents [.engine, .write (Config.base + r.offset) 4 v]) = .next last ∧
      last.readReg r = if r = .divcnt then v &&& 0xF#32 else v

/-- R59, with the schedule of log entry 1: no command stays BUSY forever. Whatever the host and the
platform do next, within one step more than the events still to come the command has completed or been
abandoned by a reset. -/
def Obligations.BusyCommandEndsWithinItsEvents : Prop :=
  ∀ s : State, Inv s → s.busy = true →
    ∃ (k : Nat) (t : State), 1 ≤ k ∧ k ≤ s.events.length + 1 ∧
      runSteps k s = .next t ∧ t.busy = false ∧ t.engine = .idle

/-- R223: a unit's step changes no other unit (log entry 9 for the list of units). -/
def Obligations.UnitsShareNoState : Prop :=
  ∀ (sys sys' : System) (k : Nat), sys.stepUnit k = .next sys' →
    sys'.length = sys.length ∧ (∀ j, j ≠ k → sys'[j]? = sys[j]?) ∧
    (∀ u, sys[k]? = some u → ∃ t, stepAt u.base u.block = .next t ∧
      sys'[k]? = some { u with block := t })

/-! ## The host's side -/

/-- R81, on the schedule of log entry 10: one call of a command on an IDLE block returns the RESULT and
ERRCODE of that command's completion on the operands the registers hold. -/
def Obligations.CallReturnsResultAndErrcode : Prop :=
  ∀ (base : Nat) (i : Instr) (s : State), s.inReset = false → s.engine = .idle →
    ∃ (t : State) (r : Driver.Returned), exec i { s.accept (encode i) with reply := some .done } =
        .next t ∧
      Driver.call base i s = .next r ∧ r.value = t.result ∧ r.errcode = t.errcode ∧
      (∀ reg, r.block.readReg reg = t.readReg reg) ∧ r.block.engine = .idle

/-- R155, on the schedule of log entry 10: the host's search gives NotPrimeError unless both numbers are
primes that fit, and else the primitive roots of the safe prime in ascending order: all of them for `limit
= 0`, and the first `limit` of them otherwise. -/
def Obligations.PrimitiveRootSearchIsCorrect : Prop :=
  ∀ (base : Nat) (p : Word) (limit : Nat) (s : State), s.inReset = false → s.engine = .idle →
    ∃ r : Driver.Search, Driver.findPrimitiveRoots base p limit s = .next r ∧
      (¬ (p.toNat.Prime ∧ (2 * p.toNat + 1).Prime ∧ p.toNat < 2 ^ 31) → r.roots = none) ∧
      (p.toNat.Prime → (2 * p.toNat + 1).Prime → p.toNat < 2 ^ 31 →
        r.roots = some
          (let roots := (List.range' 1 (2 * p.toNat)).filter fun (g : Nat) =>
            decide (orderOf ((g : Nat) : ZMod (2 * p.toNat + 1)) = 2 * p.toNat)
          if limit = 0 then roots else roots.take limit))

/-- R223, with R155 and on the schedule of log entry 10: the parallel search, each unit trying a contiguous
range of the candidates from 1 to `n - 1`, gives the result of the sequential search with `limit = 0`. Of
the two ways R223's step 1 allows, each unit here runs SAFEPRIME itself (log entry 11). -/
def Obligations.ParallelSearchEqualsTheSequential : Prop :=
  ∀ (base : Nat) (p : Word) (s : State) (shares : List Driver.Share),
    s.inReset = false → s.engine = .idle → shares ≠ [] →
    (∀ x ∈ shares, x.block.inReset = false ∧ x.block.engine = .idle) →
    (shares.map fun x => x.count).sum = 2 * p.toNat →
    ∃ (r : Driver.Search) (rs : List Driver.Search),
      Driver.findPrimitiveRoots base p 0 s = .next r ∧ Driver.parallelSearch p 1 shares = .next rs ∧
      Driver.concatenated rs = r.roots
end

