-- ==== Sys2Proof/Laws/Decode.lean ====
section
/-! SUPPORT. The decoder and the word's fields as numbers. -/

namespace Sys2Proof

@[simp] theorem CmdFields.ofWord_op (w : Word) : (CmdFields.ofWord w).op = w.extractLsb' 0 8 := rfl
@[simp] theorem CmdFields.ofWord_s (w : Word) : (CmdFields.ofWord w).s = w.getLsbD 8 := rfl
@[simp] theorem CmdFields.ofWord_rsv (w : Word) : (CmdFields.ofWord w).rsv = w.extractLsb' 9 23 := rfl

/-- Where the bits of a placed field stand. -/
theorem place_getLsbD {n : Nat} (lo : Nat) (v : BitVec n) (k : Nat) :
    (place lo v).getLsbD k = (decide (k < 32) && (decide (lo ≤ k) && v.getLsbD (k - lo))) := by
  simp only [place, BitVec.getLsbD_shiftLeft, BitVec.getLsbD_setWidth, BitVec.zeroExtend]
  by_cases h1 : k < 32 <;> by_cases h2 : lo ≤ k <;> simp [h1, h2]
  simp [Nat.not_lt.mpr h2, show k - lo < 32 by omega]

/-- The decoder reads every command from its own fields. -/
@[simp] theorem decodeFields_fields (i : Instr) : decodeFields i.fields = .legal i := by
  cases i <;> rfl

/-- The fields from which the decoder reads a command are that command's. -/
theorem eq_fields_of_decodeFields {c : CmdFields} {i : Instr} (h : decodeFields c = .legal i) :
    c = i.fields := by
  obtain ⟨op, s, rsv⟩ := c
  unfold decodeFields at h
  repeat' split at h
  all_goals first
    | contradiction
    | (injection h with h; subst h; simp_all [Instr.fields])

end Sys2Proof
end

