-- ==== Sys2Proof/Laws/Numeric.lean ====
section
/-! SUPPORT. What the numeric loops compute, said once for each. -/

namespace Sys2Proof.Machine.Numeric

/-- The square-and-multiply loop, from any base and result, with fuel for every bit of the exponent. -/
theorem powmodLoop_eq {m : Nat} (hm : 0 < m) (fuel : Nat) :
    ∀ e b r, e < 2 ^ fuel → r < m → powmodLoop fuel e b r m = r * b ^ e % m := by
  induction fuel with
  | zero =>
    intro e b r he hr
    obtain rfl : e = 0 := by simpa using he
    simp [powmodLoop, Nat.mod_eq_of_lt hr]
  | succ fuel ih =>
    intro e b r he hr
    simp only [powmodLoop]
    split
    · subst e
      simp [Nat.mod_eq_of_lt hr]
    · rw [pow_succ] at he
      have square : mulmod b b m ^ (e / 2) ≡ b ^ (2 * (e / 2)) [MOD m] := by
        rw [pow_mul, pow_two]
        exact (Nat.mod_modEq (b * b) m).pow (e / 2)
      rw [ih _ _ _ (by omega) (by split; exacts [Nat.mod_lt _ hm, hr])]
      split
      · rw [show b ^ e = b * b ^ (2 * (e / 2)) by rw [← pow_succ']; congr 1; omega, ← mul_assoc]
        exact (Nat.mod_modEq (r * b) m).mul square
      · rw [show 2 * (e / 2) = e by omega] at square
        exact square.mul_left r

/-- Square-and-multiply is the power, for a 32-bit exponent. -/
theorem powmod_eq {b e m : Nat} (hm : 0 < m) (he : e < 2 ^ 32) : powmod b e m = b ^ e % m := by
  rw [powmod, powmodLoop_eq hm _ _ _ _ he (Nat.mod_lt _ hm)]
  have := (Nat.mod_modEq 1 m).mul_right (b ^ e)
  rwa [one_mul] at this

/-- The trial-division loop from an odd `d`, with fuel to pass the square root of `n`. -/
theorem noOddDivisor_iff (n fuel : Nat) :
    ∀ d, d % 2 = 1 → n < (d + 2 * fuel) ^ 2 →
      (noOddDivisor fuel d n = true ↔ ∀ k, k % 2 = 1 → d ≤ k → k * k ≤ n → n % k ≠ 0) := by
  induction fuel with
  | zero =>
    intro d _ hn
    simp only [noOddDivisor, true_iff, Nat.mul_zero, Nat.add_zero] at hn ⊢
    intro k _ hk hs
    nlinarith
  | succ fuel ih =>
    intro d hd hn
    simp only [noOddDivisor]
    split
    · simp only [true_iff]
      intro k _ hk hs
      nlinarith
    · rename_i hle
      split
      · rename_i h0
        simp only [Bool.false_eq_true, false_iff]
        exact fun h => h d hd le_rfl (by omega) h0
      · rename_i h0
        rw [ih (d + 2) (by omega) (by convert hn using 2; ring)]
        refine ⟨fun h k hk hdk hs => ?_, fun h k hk hdk hs => h k hk (by omega) hs⟩
        rcases eq_or_ne k d with rfl | hne
        · exact h0
        · exact h k hk (by omega) hs

/-- The scan finds the first divisor whose power is 1, or there is none and it gives 0. -/
theorem firstMatch_cases (r n : Nat) (ds : List Nat) :
    (∃ before d after, ds = before ++ d :: after ∧ powmod r d n = 1 ∧
      (∀ x ∈ before, powmod r x n ≠ 1) ∧ firstMatch r n ds = d) ∨
    ((∀ x ∈ ds, powmod r x n ≠ 1) ∧ firstMatch r n ds = 0) := by
  induction ds with
  | nil => exact .inr ⟨by simp, rfl⟩
  | cons d ds ih =>
    by_cases h : powmod r d n = 1
    · exact .inl ⟨[], d, ds, rfl, h, by simp, by simp [firstMatch, h]⟩
    · rcases ih with ⟨before, x, after, rfl, hx, hb, hv⟩ | ⟨hn, hv⟩
      · refine .inl ⟨d :: before, x, after, rfl, hx, ?_, by simp [firstMatch, h, hv]⟩
        intro y hy
        rcases List.mem_cons.1 hy with rfl | hy
        · exact h
        · exact hb y hy
      · refine .inr ⟨?_, by simp [firstMatch, h, hv]⟩
        intro y hy
        rcases List.mem_cons.1 hy with rfl | hy
        · exact h
        · exact hn y hy

end Sys2Proof.Machine.Numeric
end

