-- ==== Sys2Proof/Laws/State.lean ====
section
/-! SUPPORT. One lemma per field for each update of the state, so that no proof unfolds a record update. -/

namespace Sys2Proof.Machine

variable (s : State)

/-! ### `State.withEvents` -/

@[simp] theorem State.withEvents_ie (es : List Event) : (s.withEvents es).ie = s.ie := rfl
@[simp] theorem State.withEvents_busy (es : List Event) : (s.withEvents es).busy = s.busy := rfl
@[simp] theorem State.withEvents_done (es : List Event) : (s.withEvents es).done = s.done := rfl
@[simp] theorem State.withEvents_err (es : List Event) : (s.withEvents es).err = s.err := rfl
@[simp] theorem State.withEvents_ovr (es : List Event) : (s.withEvents es).ovr = s.ovr := rfl
@[simp] theorem State.withEvents_errcode (es : List Event) :
    (s.withEvents es).errcode = s.errcode := rfl
@[simp] theorem State.withEvents_lastop (es : List Event) :
    (s.withEvents es).lastop = s.lastop := rfl
@[simp] theorem State.withEvents_cmd (es : List Event) : (s.withEvents es).cmd = s.cmd := rfl
@[simp] theorem State.withEvents_result (es : List Event) :
    (s.withEvents es).result = s.result := rfl
@[simp] theorem State.withEvents_divcnt (es : List Event) :
    (s.withEvents es).divcnt = s.divcnt := rfl
@[simp] theorem State.withEvents_opa (es : List Event) : (s.withEvents es).opa = s.opa := rfl
@[simp] theorem State.withEvents_opb (es : List Event) : (s.withEvents es).opb = s.opb := rfl
@[simp] theorem State.withEvents_opm (es : List Event) : (s.withEvents es).opm = s.opm := rfl
@[simp] theorem State.withEvents_opt (es : List Event) : (s.withEvents es).opt = s.opt := rfl
@[simp] theorem State.withEvents_div (es : List Event) : (s.withEvents es).div = s.div := rfl
@[simp] theorem State.withEvents_engine (es : List Event) :
    (s.withEvents es).engine = s.engine := rfl
@[simp] theorem State.withEvents_inReset (es : List Event) :
    (s.withEvents es).inReset = s.inReset := rfl
@[simp] theorem State.withEvents_events (es : List Event) : (s.withEvents es).events = es := rfl
@[simp] theorem State.withEvents_reply (es : List Event) : (s.withEvents es).reply = s.reply := rfl

/-! ### `State.answer` -/

@[simp] theorem State.answer_ie (r : Option Reply) : (s.answer r).ie = s.ie := rfl
@[simp] theorem State.answer_busy (r : Option Reply) : (s.answer r).busy = s.busy := rfl
@[simp] theorem State.answer_done (r : Option Reply) : (s.answer r).done = s.done := rfl
@[simp] theorem State.answer_err (r : Option Reply) : (s.answer r).err = s.err := rfl
@[simp] theorem State.answer_ovr (r : Option Reply) : (s.answer r).ovr = s.ovr := rfl
@[simp] theorem State.answer_errcode (r : Option Reply) : (s.answer r).errcode = s.errcode := rfl
@[simp] theorem State.answer_lastop (r : Option Reply) : (s.answer r).lastop = s.lastop := rfl
@[simp] theorem State.answer_cmd (r : Option Reply) : (s.answer r).cmd = s.cmd := rfl
@[simp] theorem State.answer_result (r : Option Reply) : (s.answer r).result = s.result := rfl
@[simp] theorem State.answer_divcnt (r : Option Reply) : (s.answer r).divcnt = s.divcnt := rfl
@[simp] theorem State.answer_opa (r : Option Reply) : (s.answer r).opa = s.opa := rfl
@[simp] theorem State.answer_opb (r : Option Reply) : (s.answer r).opb = s.opb := rfl
@[simp] theorem State.answer_opm (r : Option Reply) : (s.answer r).opm = s.opm := rfl
@[simp] theorem State.answer_opt (r : Option Reply) : (s.answer r).opt = s.opt := rfl
@[simp] theorem State.answer_div (r : Option Reply) : (s.answer r).div = s.div := rfl
@[simp] theorem State.answer_engine (r : Option Reply) : (s.answer r).engine = s.engine := rfl
@[simp] theorem State.answer_inReset (r : Option Reply) : (s.answer r).inReset = s.inReset := rfl
@[simp] theorem State.answer_events (r : Option Reply) : (s.answer r).events = s.events := rfl
@[simp] theorem State.answer_reply (r : Option Reply) : (s.answer r).reply = r := rfl

/-! ### `State.flagsDropped` -/

@[simp] theorem State.flagsDropped_ie : (s.flagsDropped).ie = s.ie := rfl
@[simp] theorem State.flagsDropped_busy : (s.flagsDropped).busy = s.busy := rfl
@[simp] theorem State.flagsDropped_done : (s.flagsDropped).done = s.done := rfl
@[simp] theorem State.flagsDropped_err : (s.flagsDropped).err = s.err := rfl
@[simp] theorem State.flagsDropped_ovr : (s.flagsDropped).ovr = true := rfl
@[simp] theorem State.flagsDropped_errcode : (s.flagsDropped).errcode = s.errcode := rfl
@[simp] theorem State.flagsDropped_lastop : (s.flagsDropped).lastop = s.lastop := rfl
@[simp] theorem State.flagsDropped_cmd : (s.flagsDropped).cmd = s.cmd := rfl
@[simp] theorem State.flagsDropped_result : (s.flagsDropped).result = s.result := rfl
@[simp] theorem State.flagsDropped_divcnt : (s.flagsDropped).divcnt = s.divcnt := rfl
@[simp] theorem State.flagsDropped_opa : (s.flagsDropped).opa = s.opa := rfl
@[simp] theorem State.flagsDropped_opb : (s.flagsDropped).opb = s.opb := rfl
@[simp] theorem State.flagsDropped_opm : (s.flagsDropped).opm = s.opm := rfl
@[simp] theorem State.flagsDropped_opt : (s.flagsDropped).opt = s.opt := rfl
@[simp] theorem State.flagsDropped_div : (s.flagsDropped).div = s.div := rfl
@[simp] theorem State.flagsDropped_engine : (s.flagsDropped).engine = s.engine := rfl
@[simp] theorem State.flagsDropped_inReset : (s.flagsDropped).inReset = s.inReset := rfl
@[simp] theorem State.flagsDropped_events : (s.flagsDropped).events = s.events := rfl
@[simp] theorem State.flagsDropped_reply : (s.flagsDropped).reply = s.reply := rfl

/-! ### `State.flagsWritten` -/

@[simp] theorem State.flagsWritten_ie (v : Word) : (s.flagsWritten v).ie = s.ie := rfl
@[simp] theorem State.flagsWritten_busy (v : Word) : (s.flagsWritten v).busy = s.busy := rfl
@[simp] theorem State.flagsWritten_done (v : Word) :
    (s.flagsWritten v).done = if v.getLsbD 1 && !s.busy then false else s.done := rfl
@[simp] theorem State.flagsWritten_err (v : Word) : (s.flagsWritten v).err = s.err := rfl
@[simp] theorem State.flagsWritten_ovr (v : Word) :
    (s.flagsWritten v).ovr = if v.getLsbD 3 then false else s.ovr := rfl
@[simp] theorem State.flagsWritten_errcode (v : Word) :
    (s.flagsWritten v).errcode = s.errcode := rfl
@[simp] theorem State.flagsWritten_lastop (v : Word) : (s.flagsWritten v).lastop = s.lastop := rfl
@[simp] theorem State.flagsWritten_cmd (v : Word) : (s.flagsWritten v).cmd = s.cmd := rfl
@[simp] theorem State.flagsWritten_result (v : Word) : (s.flagsWritten v).result = s.result := rfl
@[simp] theorem State.flagsWritten_divcnt (v : Word) : (s.flagsWritten v).divcnt = s.divcnt := rfl
@[simp] theorem State.flagsWritten_opa (v : Word) : (s.flagsWritten v).opa = s.opa := rfl
@[simp] theorem State.flagsWritten_opb (v : Word) : (s.flagsWritten v).opb = s.opb := rfl
@[simp] theorem State.flagsWritten_opm (v : Word) : (s.flagsWritten v).opm = s.opm := rfl
@[simp] theorem State.flagsWritten_opt (v : Word) : (s.flagsWritten v).opt = s.opt := rfl
@[simp] theorem State.flagsWritten_div (v : Word) : (s.flagsWritten v).div = s.div := rfl
@[simp] theorem State.flagsWritten_engine (v : Word) : (s.flagsWritten v).engine = s.engine := rfl
@[simp] theorem State.flagsWritten_inReset (v : Word) :
    (s.flagsWritten v).inReset = s.inReset := rfl
@[simp] theorem State.flagsWritten_events (v : Word) : (s.flagsWritten v).events = s.events := rfl
@[simp] theorem State.flagsWritten_reply (v : Word) : (s.flagsWritten v).reply = s.reply := rfl

/-! ### `State.accept` -/

@[simp] theorem State.accept_ie (w : Word) : (s.accept w).ie = s.ie := rfl
@[simp] theorem State.accept_busy (w : Word) : (s.accept w).busy = true := rfl
@[simp] theorem State.accept_done (w : Word) : (s.accept w).done = false := rfl
@[simp] theorem State.accept_err (w : Word) : (s.accept w).err = false := rfl
@[simp] theorem State.accept_ovr (w : Word) : (s.accept w).ovr = s.ovr := rfl
@[simp] theorem State.accept_errcode (w : Word) : (s.accept w).errcode = 0#4 := rfl
@[simp] theorem State.accept_lastop (w : Word) : (s.accept w).lastop = w.extractLsb' 0 8 := rfl
@[simp] theorem State.accept_cmd (w : Word) : (s.accept w).cmd = w := rfl
@[simp] theorem State.accept_result (w : Word) : (s.accept w).result = s.result := rfl
@[simp] theorem State.accept_divcnt (w : Word) : (s.accept w).divcnt = s.divcnt := rfl
@[simp] theorem State.accept_opa (w : Word) : (s.accept w).opa = s.opa := rfl
@[simp] theorem State.accept_opb (w : Word) : (s.accept w).opb = s.opb := rfl
@[simp] theorem State.accept_opm (w : Word) : (s.accept w).opm = s.opm := rfl
@[simp] theorem State.accept_opt (w : Word) : (s.accept w).opt = s.opt := rfl
@[simp] theorem State.accept_div (w : Word) : (s.accept w).div = s.div := rfl
@[simp] theorem State.accept_engine (w : Word) : (s.accept w).engine = .busy (s.capture w) := rfl
@[simp] theorem State.accept_inReset (w : Word) : (s.accept w).inReset = s.inReset := rfl
@[simp] theorem State.accept_events (w : Word) : (s.accept w).events = s.events := rfl
@[simp] theorem State.accept_reply (w : Word) : (s.accept w).reply = s.reply := rfl

/-! ### `State.finish` -/

@[simp] theorem State.finish_ie (c : BitVec 4) (v : Word) : (s.finish c v).ie = s.ie := rfl
@[simp] theorem State.finish_busy (c : BitVec 4) (v : Word) : (s.finish c v).busy = false := rfl
@[simp] theorem State.finish_done (c : BitVec 4) (v : Word) : (s.finish c v).done = true := rfl
@[simp] theorem State.finish_err (c : BitVec 4) (v : Word) : (s.finish c v).err = (c != 0#4) := rfl
@[simp] theorem State.finish_ovr (c : BitVec 4) (v : Word) : (s.finish c v).ovr = s.ovr := rfl
@[simp] theorem State.finish_errcode (c : BitVec 4) (v : Word) : (s.finish c v).errcode = c := rfl
@[simp] theorem State.finish_lastop (c : BitVec 4) (v : Word) :
    (s.finish c v).lastop = s.lastop := rfl
@[simp] theorem State.finish_cmd (c : BitVec 4) (v : Word) : (s.finish c v).cmd = s.cmd := rfl
@[simp] theorem State.finish_result (c : BitVec 4) (v : Word) : (s.finish c v).result = v := rfl
@[simp] theorem State.finish_divcnt (c : BitVec 4) (v : Word) :
    (s.finish c v).divcnt = s.divcnt := rfl
@[simp] theorem State.finish_opa (c : BitVec 4) (v : Word) : (s.finish c v).opa = s.opa := rfl
@[simp] theorem State.finish_opb (c : BitVec 4) (v : Word) : (s.finish c v).opb = s.opb := rfl
@[simp] theorem State.finish_opm (c : BitVec 4) (v : Word) : (s.finish c v).opm = s.opm := rfl
@[simp] theorem State.finish_opt (c : BitVec 4) (v : Word) : (s.finish c v).opt = s.opt := rfl
@[simp] theorem State.finish_div (c : BitVec 4) (v : Word) : (s.finish c v).div = s.div := rfl
@[simp] theorem State.finish_engine (c : BitVec 4) (v : Word) : (s.finish c v).engine = .idle := rfl
@[simp] theorem State.finish_inReset (c : BitVec 4) (v : Word) :
    (s.finish c v).inReset = s.inReset := rfl
@[simp] theorem State.finish_events (c : BitVec 4) (v : Word) :
    (s.finish c v).events = s.events := rfl
@[simp] theorem State.finish_reply (c : BitVec 4) (v : Word) : (s.finish c v).reply = s.reply := rfl

/-! ### `State.load` -/

@[simp] theorem State.load_ie (o : OrderLoad) : (s.load o).ie = s.ie := rfl
@[simp] theorem State.load_busy (o : OrderLoad) : (s.load o).busy = s.busy := rfl
@[simp] theorem State.load_done (o : OrderLoad) : (s.load o).done = s.done := rfl
@[simp] theorem State.load_err (o : OrderLoad) : (s.load o).err = s.err := rfl
@[simp] theorem State.load_ovr (o : OrderLoad) : (s.load o).ovr = s.ovr := rfl
@[simp] theorem State.load_errcode (o : OrderLoad) : (s.load o).errcode = s.errcode := rfl
@[simp] theorem State.load_lastop (o : OrderLoad) : (s.load o).lastop = s.lastop := rfl
@[simp] theorem State.load_cmd (o : OrderLoad) : (s.load o).cmd = s.cmd := rfl
@[simp] theorem State.load_result (o : OrderLoad) : (s.load o).result = s.result := rfl
@[simp] theorem State.load_divcnt (o : OrderLoad) : (s.load o).divcnt = o.divcnt := rfl
@[simp] theorem State.load_opa (o : OrderLoad) : (s.load o).opa = s.opa := rfl
@[simp] theorem State.load_opb (o : OrderLoad) : (s.load o).opb = s.opb := rfl
@[simp] theorem State.load_opm (o : OrderLoad) : (s.load o).opm = o.opm := rfl
@[simp] theorem State.load_opt (o : OrderLoad) : (s.load o).opt = o.opt := rfl
@[simp] theorem State.load_div (o : OrderLoad) :
    (s.load o).div = (((s.div.set 0 o.div0).set 1 o.div1).set 2 o.div2).set 3 o.div3 := rfl
@[simp] theorem State.load_engine (o : OrderLoad) : (s.load o).engine = s.engine := rfl
@[simp] theorem State.load_inReset (o : OrderLoad) : (s.load o).inReset = s.inReset := rfl
@[simp] theorem State.load_events (o : OrderLoad) : (s.load o).events = s.events := rfl
@[simp] theorem State.load_reply (o : OrderLoad) : (s.load o).reply = s.reply := rfl

/-! ### `State.resetBlock` -/

@[simp] theorem State.resetBlock_ie : (s.resetBlock).ie = false := rfl
@[simp] theorem State.resetBlock_busy : (s.resetBlock).busy = false := rfl
@[simp] theorem State.resetBlock_done : (s.resetBlock).done = false := rfl
@[simp] theorem State.resetBlock_err : (s.resetBlock).err = false := rfl
@[simp] theorem State.resetBlock_ovr : (s.resetBlock).ovr = false := rfl
@[simp] theorem State.resetBlock_errcode : (s.resetBlock).errcode = 0#4 := rfl
@[simp] theorem State.resetBlock_lastop : (s.resetBlock).lastop = 0#8 := rfl
@[simp] theorem State.resetBlock_cmd : (s.resetBlock).cmd = 0#32 := rfl
@[simp] theorem State.resetBlock_result : (s.resetBlock).result = 0#32 := rfl
@[simp] theorem State.resetBlock_divcnt : (s.resetBlock).divcnt = 0#4 := rfl
@[simp] theorem State.resetBlock_opa : (s.resetBlock).opa = 0#32 := rfl
@[simp] theorem State.resetBlock_opb : (s.resetBlock).opb = 0#32 := rfl
@[simp] theorem State.resetBlock_opm : (s.resetBlock).opm = 0#32 := rfl
@[simp] theorem State.resetBlock_opt : (s.resetBlock).opt = 0#32 := rfl
@[simp] theorem State.resetBlock_div : (s.resetBlock).div = State.reset.div := rfl
@[simp] theorem State.resetBlock_engine : (s.resetBlock).engine = .idle := rfl
@[simp] theorem State.resetBlock_inReset : (s.resetBlock).inReset = s.inReset := rfl
@[simp] theorem State.resetBlock_events : (s.resetBlock).events = s.events := rfl
@[simp] theorem State.resetBlock_reply : (s.resetBlock).reply = s.reply := rfl

end Sys2Proof.Machine
end

