-- ==== Sys2Proof/Laws/Ops.lean ====
section
/-! SUPPORT. What each shared operation can do, said once: the register map, the window, a completion, a
step by the event it serves. -/

namespace Sys2Proof.Machine

/-! ### The register map and the window -/

@[simp] theorem regAt_offset (r : Reg) : regAt r.offset = some r := by
  cases r with
  | div i => revert i; decide
  | _ => rfl

/-- The register at an offset is the one whose offset it is. -/
theorem offset_of_regAt {off : Nat} {r : Reg} (h : regAt off = some r) : r.offset = off := by
  simpa using List.find?_some h

theorem Reg.offset_lt (r : Reg) : r.offset < 256 := by
  cases r with
  | div i => have := i.isLt; simp only [Reg.offset]; omega
  | _ => decide

@[simp] theorem Reg.offset_aligned (r : Reg) : r.offset % 4 = 0 := by
  cases r with
  | div i => simp only [Reg.offset]; omega
  | _ => rfl

@[simp] theorem accessAllowed_reg (r : Reg) : accessAllowed r.offset 4 = true := by
  simp [accessAllowed]

/-- An offset inside the window is selected at `base + off` (R52). -/
theorem windowOffset_add (base : Nat) {off : Nat} (h : off < 256) :
    windowOffset base (base + off) = some off := by
  simp only [windowOffset, Config.windowBytes]
  rw [if_pos (by omega)]
  simp

@[simp] theorem windowOffset_reg (base : Nat) (r : Reg) :
    windowOffset base (base + r.offset) = some r.offset :=
  windowOffset_add base r.offset_lt

/-- A selected address is an offset inside the window. -/
theorem eq_add_of_windowOffset {base addr off : Nat} (h : windowOffset base addr = some off) :
    addr = base + off ∧ off < 256 := by
  simp only [windowOffset, Config.windowBytes] at h
  split at h
  · injection h with h; omega
  · contradiction

/-- `BASE` is a multiple of 256 (R52). -/
theorem base_aligned : Config.base % 256 = 0 := by simp [Config.base, Config.windowBytes]

@[simp] theorem State.readOffset_reg (s : State) (r : Reg) : s.readOffset r.offset = s.readReg r := by
  simp [State.readOffset]

@[simp] theorem State.writeOffset_reg (s : State) (r : Reg) (v : Word) :
    s.writeOffset r.offset v = s.writeReg r v := by
  simp [State.writeOffset]

/-- Everything a register write can do that is no soft reset: accept or drop a command, write STATUS or
IE, or leave all of STATUS, IE, CMD, RESULT, the engine and the port as they are. -/
theorem State.writeReg_cases (s : State) (reg : Reg) (v : Word)
    (h : ¬ (reg = .ctrl ∧ v.getLsbD 1 = true)) :
    (reg = .cmd ∧ s.engine = .idle ∧ s.writeReg reg v = s.accept v) ∨
    (reg = .cmd ∧ s.engine.isBusy = true ∧ s.writeReg reg v = s.flagsDropped) ∨
    (reg = .status ∧ s.writeReg reg v = s.flagsWritten v) ∨
    (reg = .ctrl ∧ v.getLsbD 1 = false ∧ s.writeReg reg v = { s with ie := v.getLsbD 0 }) ∨
    ∃ t, s.writeReg reg v = t ∧ t = { s with
      opa := t.opa, opb := t.opb, opm := t.opm, opt := t.opt, div := t.div, divcnt := t.divcnt } := by
  cases reg with
  | cmd =>
    cases he : s.engine with
    | idle => exact .inl ⟨rfl, rfl, by simp [State.writeReg, State.writeCmd, he]⟩
    | busy q => exact .inr (.inl ⟨rfl, rfl, by simp [State.writeReg, State.writeCmd, he]⟩)
  | status => exact .inr (.inr (.inl ⟨rfl, rfl⟩))
  | ctrl =>
    simp only [true_and] at h
    exact .inr (.inr (.inr (.inl ⟨rfl, by simpa using h, by
      simp only [State.writeReg, State.writeCtrl, if_neg h]⟩)))
  | _ => exact .inr (.inr (.inr (.inr ⟨_, rfl, rfl⟩)))

/-! ### A completion -/

/-- While the engine holds a command, its completion is a next state. -/
theorem completeHeld_busy {s : State} {q : Snapshot} (h : s.engine = .busy q)
    (rule : Snapshot → CommandOutcome) : completeHeld s rule = .next (s.conclude (rule q)) := by
  simp [completeHeld, h]

/-- A completion that answers a next state held a command, and ended by its rule. -/
theorem completeHeld_next {s t : State} {rule : Snapshot → CommandOutcome}
    (h : completeHeld s rule = .next t) :
    ∃ q, s.engine = .busy q ∧ t = s.conclude (rule q) := by
  unfold completeHeld at h
  split at h
  · contradiction
  · rename_i q hq
    injection h with h
    exact ⟨q, hq, h.symm⟩

/-- Every way a command can end leaves the engine IDLE with DONE set, ERR as the code says, and but for
RESULT and the loaded registers nothing else changed. -/
theorem State.conclude_cases (s : State) (o : CommandOutcome) :
    (∃ v, o = .complete v ∧ s.conclude o = s.finish 0#4 v) ∨
    (∃ v side, o = .completeLoading v side ∧ s.conclude o = (s.load side).finish 0#4 v) ∨
    (∃ e info, o = .raise e info ∧ s.conclude o = s.finish e.code info) := by
  cases o with
  | complete v => exact .inl ⟨v, rfl, rfl⟩
  | completeLoading v side => exact .inr (.inl ⟨v, side, rfl, rfl⟩)
  | raise e info => exact .inr (.inr ⟨e, info, rfl, rfl⟩)

/-- What a command computes (R75): the rule that its meaning completes with. NOP alone reads RESULT. -/
def ruleOf (s : State) : Instr → Snapshot → CommandOutcome
  | .nop        => fun _ => .complete s.result
  | .mulmod     => mulmodRule
  | .powmod     => powmodRule
  | .isprime    => isprimeRule
  | .isprimeS   => isprimeSRule
  | .mulord     => mulordRule
  | .isprimroot => isprimrootRule
  | .safeprime  => safeprimeRule

/-- Every command's meaning is the shared completion with its rule. -/
theorem exec_eq_completeHeld (i : Instr) (s : State) : exec i s = completeHeld s (ruleOf s i) := by
  cases i <;> rfl

/-- A command that answers a next state was held, and ended by its rule. -/
theorem exec_next {i : Instr} {s t : State} (h : exec i s = .next t) :
    ∃ q, s.engine = .busy q ∧ t = s.conclude (ruleOf s i q) :=
  completeHeld_next (exec_eq_completeHeld i s ▸ h)

/-- A command that is held completes. -/
theorem exec_busy (i : Instr) {s : State} {q : Snapshot} (h : s.engine = .busy q) :
    exec i s = .next (s.conclude (ruleOf s i q)) := by
  rw [exec_eq_completeHeld, completeHeld_busy h]

/-! ### A step by its event -/

/-- The step of a well-formed register write. -/
theorem step_write {s : State} {off : Nat} {v : Word} {rest : List Event} (hr : s.inReset = false)
    (ho : off < 256) (ha : off % 4 = 0)
    (he : s.events = .write (Config.base + off) 4 v :: rest) :
    step s = .next (((s.withEvents rest).writeOffset off v).answer (some .done)) := by
  simp [step, stepAt, he, happen, windowOffset_add _ ho, transact, hr, State.serveWrite,
    accessAllowed, ha]

/-- The step of a well-formed register read. -/
theorem step_read {s : State} {off : Nat} {rest : List Event} (hr : s.inReset = false)
    (ho : off < 256) (ha : off % 4 = 0) (he : s.events = .read (Config.base + off) 4 :: rest) :
    step s = .next ((s.withEvents rest).answer
      (some (.data ((s.withEvents rest).readOffset off)))) := by
  simp [step, stepAt, he, happen, windowOffset_add _ ho, transact, hr, State.serveRead,
    accessAllowed, ha]

/-- Everything one event can do, when it answers a next state. -/
theorem happen_next {base : Nat} {e : Event} {s t : State} (h : happen base e s = .next t) :
    (e = .engine ∧ engineTurn s = .next t) ∨
    (e = .resetLow ∧ t = s.pinLow) ∨
    (e = .resetHigh ∧ t = s.pinHigh) ∨
    ((∃ addr size, e = .read addr size ∨ ∃ v, e = .write addr size v) ∧ t = s.answer none) ∨
    (∃ off size, e = .read (base + off) size ∧ off < 256 ∧ s.inReset = false ∧
      t = s.serveRead off size) ∨
    (∃ off size v, e = .write (base + off) size v ∧ off < 256 ∧ s.inReset = false ∧
      t = s.serveWrite off size v) := by
  cases e with
  | engine => exact .inl ⟨rfl, h⟩
  | resetLow => injection h with h; exact .inr (.inl ⟨rfl, h.symm⟩)
  | resetHigh => injection h with h; exact .inr (.inr (.inl ⟨rfl, h.symm⟩))
  | read addr size =>
    simp only [happen] at h
    split at h
    · injection h with h
      exact .inr (.inr (.inr (.inl ⟨⟨addr, size, .inl rfl⟩, h.symm⟩)))
    · rename_i off ho
      obtain ⟨rfl, hlt⟩ := eq_add_of_windowOffset ho
      unfold transact at h
      split at h
      · contradiction
      · rename_i hr
        injection h with h
        exact .inr (.inr (.inr (.inr (.inl ⟨off, size, rfl, hlt, by simpa using hr, h.symm⟩))))
  | write addr size v =>
    simp only [happen] at h
    split at h
    · injection h with h
      exact .inr (.inr (.inr (.inl ⟨⟨addr, size, .inr ⟨v, rfl⟩⟩, h.symm⟩)))
    · rename_i off ho
      obtain ⟨rfl, hlt⟩ := eq_add_of_windowOffset ho
      unfold transact at h
      split at h
      · contradiction
      · rename_i hr
        injection h with h
        exact .inr (.inr (.inr (.inr (.inr ⟨off, size, v, rfl, hlt, by simpa using hr, h.symm⟩))))

/-- Everything the engine's turn can do, when it answers a next state. -/
theorem engineTurn_next {s t : State} (h : engineTurn s = .next t) :
    ((s.inReset = true ∨ s.engine = .idle) ∧ t = s) ∨
    (s.inReset = false ∧ ∃ q i, s.engine = .busy q ∧ decodeFields q.cmd = .legal i ∧
      t = s.conclude (ruleOf s i q)) ∨
    (s.inReset = false ∧ ∃ q why, s.engine = .busy q ∧ decodeFields q.cmd = .illegal why ∧
      t = s.finish 5#4 0#32) := by
  unfold engineTurn at h
  split at h
  · rename_i hr
    injection h with h
    exact .inl ⟨.inl (by simpa using hr), h.symm⟩
  · rename_i hr
    have hr : s.inReset = false := by simpa using hr
    unfold completion at h
    split at h
    · rename_i hq
      injection h with h
      exact .inl ⟨.inr hq, h.symm⟩
    · rename_i q hq
      split at h
      · rename_i i hi
        obtain ⟨q', hq', rfl⟩ := exec_next h
        rw [hq] at hq'
        injection hq' with hq'
        subst hq'
        exact .inr (.inl ⟨hr, q, i, hq, hi, rfl⟩)
      · rename_i why hw
        injection h with h
        exact .inr (.inr ⟨hr, q, why, hq, hw, h.symm⟩)

end Sys2Proof.Machine
end

