-- ==== Sys2Proof/Laws/PerInstr.lean ====
section
/-! SUPPORT. The family `Encoding`: a command's fields are those of a legal word, and its word is taken
apart into them (R70, R71, R77). -/

namespace Sys2Proof.Laws.Encoding

/-- What the family says of one command. -/
def Statement (i : Instr) : Prop :=
  i.fields.wellFormed = true ∧ CmdFields.ofWord (encode i) = i.fields

theorem nop : Statement .nop := ⟨by decide, by decide⟩
theorem mulmod : Statement .mulmod := ⟨by decide, by decide⟩
theorem powmod : Statement .powmod := ⟨by decide, by decide⟩
theorem isprime : Statement .isprime := ⟨by decide, by decide⟩
theorem isprimeS : Statement .isprimeS := ⟨by decide, by decide⟩
theorem mulord : Statement .mulord := ⟨by decide, by decide⟩
theorem isprimroot : Statement .isprimroot := ⟨by decide, by decide⟩
theorem safeprime : Statement .safeprime := ⟨by decide, by decide⟩

end Sys2Proof.Laws.Encoding
end

