-- ==== Sys2Proof/Laws/Step.lean ====
section
/-! SUPPORT. What a step can do, said once, in the terms of Safety.lean: nothing but the port, a register
write, a completion, or a reset. -/

namespace Sys2Proof.Machine

/-- A step that answers a next state: (1) only the events to come and the bus answer changed; (2) a
register was written, and it was no soft reset; (3) the held command completed; (4) everything was
reset. -/
theorem step_next {s t : State} (h : step s = .next t) :
    (∃ es r, t = (s.withEvents es).answer r) ∨
    (∃ (reg : Reg) (v : Word) (es : List Event), servesWrite s reg.offset v ∧
      ¬ (reg = .ctrl ∧ v.getLsbD 1 = true) ∧
      t = ((s.withEvents es).writeReg reg v).answer (some .done)) ∨
    (completes s ∧ ∃ (q : Snapshot) (es : List Event), s.engine = .busy q ∧
      ((∃ i, decodeFields q.cmd = .legal i ∧
          t = (s.withEvents es).conclude (ruleOf s i q)) ∨
        (∃ why, decodeFields q.cmd = .illegal why ∧ t = (s.withEvents es).finish 5#4 0#32))) ∨
    (resets s ∧ ∃ (es : List Event) (r : Option Reply) (b : Bool),
      t = { State.reset with events := es, reply := r, inReset := b }) := by
  unfold step stepAt at h
  split at h
  · rename_i he
    rcases engineTurn_next h with ⟨-, rfl⟩ | ⟨hr, q, i, hq, hi, rfl⟩ | ⟨hr, q, why, hq, hw, rfl⟩
    · exact .inl ⟨t.events, t.reply, rfl⟩
    · exact .inr (.inr (.inl ⟨⟨hr, by simp [hq, Engine.isBusy], .inl he⟩, q, s.events, hq,
        .inl ⟨i, hi, rfl⟩⟩))
    · exact .inr (.inr (.inl ⟨⟨hr, by simp [hq, Engine.isBusy], .inl he⟩, q, s.events, hq,
        .inr ⟨why, hw, rfl⟩⟩))
  · rename_i e rest he
    rcases happen_next h with ⟨rfl, ht⟩ | ⟨rfl, rfl⟩ | ⟨rfl, rfl⟩ | ⟨-, rfl⟩ |
      ⟨off, size, rfl, ho, hr, rfl⟩ | ⟨off, size, v, rfl, ho, hr, rfl⟩
    · rcases engineTurn_next ht with ⟨-, rfl⟩ | ⟨hr, q, i, hq, hi, rfl⟩ | ⟨hr, q, why, hq, hw, rfl⟩
      · exact .inl ⟨rest, s.reply, rfl⟩
      · exact .inr (.inr (.inl ⟨⟨hr, by simp_all [Engine.isBusy], .inr ⟨rest, he⟩⟩, q, rest, hq,
          .inl ⟨i, hi, by cases i <;> rfl⟩⟩))
      · exact .inr (.inr (.inl ⟨⟨hr, by simp_all [Engine.isBusy], .inr ⟨rest, he⟩⟩, q, rest, hq,
          .inr ⟨why, hw, rfl⟩⟩))
    · exact .inr (.inr (.inr ⟨.inr (.inl ⟨rest, he⟩), rest, none, true, rfl⟩))
    · unfold State.pinHigh
      split
      · rename_i hr
        exact .inr (.inr (.inr ⟨.inr (.inr ⟨hr, rest, he⟩), rest, none, false, rfl⟩))
      · exact .inl ⟨rest, s.reply, rfl⟩
    · exact .inl ⟨rest, none, rfl⟩
    · unfold State.serveRead
      split
      · exact .inl ⟨rest, _, rfl⟩
      · exact .inl ⟨rest, _, rfl⟩
    · unfold State.serveWrite
      split
      · rename_i ha
        have hsize : size = 4 := by simp [accessAllowed] at ha; exact ha.1
        subst hsize
        unfold State.writeOffset
        split
        · rename_i reg hreg
          obtain rfl := offset_of_regAt hreg
          by_cases hc : reg = .ctrl ∧ v.getLsbD 1 = true
          · obtain ⟨rfl, hv⟩ := hc
            refine .inr (.inr (.inr ⟨.inl ⟨v, ⟨hr, rest, he⟩, hv⟩, rest, some .done, false, ?_⟩))
            have hr : s.inReset = false := hr
            rw [show (s.withEvents rest).writeReg .ctrl v = (s.withEvents rest).resetBlock by
              rw [State.writeReg, State.writeCtrl, if_pos hv]]
            simp only [State.resetBlock, State.answer, State.withEvents_inReset, hr,
              State.withEvents_events]
          · exact .inr (.inl ⟨reg, v, rest, ⟨hr, rest, he⟩, hc, rfl⟩)
        · exact .inl ⟨rest, _, rfl⟩
      · exact .inl ⟨rest, _, rfl⟩

/-- The held command's completion is a step that answers a next state. -/
theorem step_completes {s : State} (h : completes s) :
    ∃ (q : Snapshot) (es : List Event), s.engine = .busy q ∧
      ((∃ i, decodeFields q.cmd = .legal i ∧
          step s = .next ((s.withEvents es).conclude (ruleOf s i q))) ∨
        (∃ why, decodeFields q.cmd = .illegal why ∧
          step s = .next ((s.withEvents es).finish 5#4 0#32))) := by
  obtain ⟨hr, hb, he⟩ := h
  cases hq : s.engine with
  | idle => simp [hq, Engine.isBusy] at hb
  | busy q =>
    have turn : ∀ es, (∃ i, decodeFields q.cmd = .legal i ∧
          engineTurn (s.withEvents es) = .next ((s.withEvents es).conclude (ruleOf s i q))) ∨
        (∃ why, decodeFields q.cmd = .illegal why ∧
          engineTurn (s.withEvents es) = .next ((s.withEvents es).finish 5#4 0#32)) := by
      intro es
      cases hd : decodeFields q.cmd with
      | legal i =>
        refine .inl ⟨i, rfl, ?_⟩
        simp only [engineTurn, State.withEvents_inReset, hr, completion, State.withEvents_engine, hq,
          hd]
        rw [exec_busy i (by simpa using hq)]
        cases i <;> rfl
      | illegal why =>
        refine .inr ⟨why, rfl, ?_⟩
        simp only [engineTurn, State.withEvents_inReset, hr, completion, State.withEvents_engine, hq,
          hd]
        rfl
    rcases he with he | ⟨rest, he⟩
    · have hs : step s = engineTurn s := by simp only [step, stepAt, he]
      exact ⟨q, s.events, rfl, hs ▸ turn s.events⟩
    · have hs : step s = engineTurn (s.withEvents rest) := by simp only [step, stepAt, he, happen]
      exact ⟨q, rest, rfl, hs ▸ turn rest⟩

/-- The step that serves a register write. -/
theorem step_servesWrite {s : State} {reg : Reg} {v : Word} (h : servesWrite s reg.offset v) :
    ∃ es, step s = .next (((s.withEvents es).writeReg reg v).answer (some .done)) := by
  obtain ⟨hr, rest, he⟩ := h
  exact ⟨rest, by rw [step_write hr reg.offset_lt reg.offset_aligned he, State.writeOffset_reg]⟩

/-- A run goes on from its first step. -/
theorem runSteps_succ {s t : State} (h : step s = .next t) (k : Nat) :
    runSteps (k + 1) s = runSteps k t := by
  simp [runSteps, h]

end Sys2Proof.Machine
end

