-- ==== Sys2Proof/Tests/Slice0.lean ====
section
/-! SUPPORT. Tests of one step each, with expected results from the tables of 95_test_vectors.md and the
word table of 30_encoding.md, and for each statement with hypotheses a state and operands that meet them. -/

namespace Sys2Proof.Tests

open Sys2Proof Sys2Proof.Machine

/-! ### Helpers -/

/-- The divisors SAFEPRIME loads for 11. -/
def divs23 : DivFile := #v[1#32, 2#32, 11#32, 22#32, 0#32, 0#32, 0#32, 0#32]

/-- A block that has just accepted the word `w` with these operands. -/
def held (w a b m t : Word) (cnt : BitVec 4) (d : DivFile) : State :=
  State.accept { State.reset with opa := a, opb := b, opm := m, opt := t, divcnt := cnt, div := d } w

/-- RESULT and ERRCODE of a next state. -/
def ends : Host.Outcome State Fault Refusal → Option (Word × BitVec 4)
  | .next s => some (s.result, s.errcode)
  | _ => none

/-- The STATUS word of a next state. -/
def statusOf : Host.Outcome State Fault Refusal → Option Word
  | .next s => some s.statusWord
  | _ => none

/-- The answer of a next state. -/
def replyOf : Host.Outcome State Fault Refusal → Option Reply
  | .next s => s.reply
  | _ => none

/-- The roots of a search. -/
def rootsOf : Host.Outcome Driver.Search Fault Refusal → Option (List Nat)
  | .next r => r.roots
  | _ => none

/-! ### WellFormed: an ill-formed word for each check -/

theorem test_wf_reserved_bit : (⟨0x03#8, false, 1#23⟩ : CmdFields).wellFormed = false := by decide
theorem test_wf_modifier : (⟨0x01#8, true, 0#23⟩ : CmdFields).wellFormed = false := by decide
theorem test_wf_opcode : (⟨0x07#8, false, 0#23⟩ : CmdFields).wellFormed = false := by decide
theorem test_wf_isprimeS : (⟨0x03#8, true, 0#23⟩ : CmdFields).wellFormed = true := by decide

/-! ### Decode: RSV, S, OP written out from R70 and R71 -/

theorem test_decode_nop : decode 0b00000000000000000000000000000000#32 = .legal .nop := by decide
theorem test_decode_mulmod : decode 0b00000000000000000000000000000001#32 = .legal .mulmod := by decide
theorem test_decode_powmod : decode 0b00000000000000000000000000000010#32 = .legal .powmod := by decide
theorem test_decode_isprime : decode 0b00000000000000000000000000000011#32 = .legal .isprime := by
  decide
theorem test_decode_isprimeS : decode 0b00000000000000000000000100000011#32 = .legal .isprimeS := by
  decide
theorem test_decode_mulord : decode 0b00000000000000000000000000000100#32 = .legal .mulord := by decide
theorem test_decode_isprimroot :
    decode 0b00000000000000000000000000000101#32 = .legal .isprimroot := by decide
theorem test_decode_safeprime : decode 0b00000000000000000000000000000110#32 = .legal .safeprime := by
  decide
theorem test_decode_opcode_7 : decode 0x00000007#32 = .illegal .reservedOpcode := by decide
theorem test_decode_opcode_ff : decode 0x000000FF#32 = .illegal .reservedOpcode := by decide
theorem test_decode_s_with_nop : decode 0x00000100#32 = .illegal .modifierWithOtherOp := by decide
theorem test_decode_rsv_bit_9 : decode 0x00000203#32 = .illegal .reservedBits := by decide
theorem test_decode_rsv_bit_31 : decode 0x80000001#32 = .illegal .reservedBits := by decide
theorem test_encode_isprimeS : encode .isprimeS = 0x00000103#32 := by decide
theorem test_table_word : decodeTableWord 32 259 = some .isprimeS := by decide
theorem test_table_word_illegal : decodeTableWord 32 7 = none := by decide
theorem test_decode_bytes : decodeBytes [0x03#8, 0x01#8, 0#8, 0#8] = some (.legal .isprimeS) := by
  decide
theorem test_decode_three_bytes : decodeBytes [0x03#8, 0#8, 0#8] = none := by decide

/-! ### The commands (95_test_vectors.md 2.1-2.6) -/

/-- R163's example: RESULT = 23, then NOP gives RESULT = 23 and STATUS = 0x00000002. -/
theorem test_nop : (match exec .nop { held 0#32 0 0 0 0 0 divs23 with result := 23#32 } with
    | .next t => some (t.result, t.statusWord) | _ => none) = some (23#32, 0x00000002#32) := by decide
theorem test_mulmod_33_bit_sum :
    ends (exec .mulmod (held 1#32 0xFFFFFFFE#32 0xFFFFFFFE#32 0xFFFFFFFF#32 0 0 divs23)) =
      some (1#32, 0#4) := by decide
theorem test_mulmod_modulus_0 :
    statusOf (exec .mulmod (held 1#32 5#32 6#32 0#32 0 0 divs23)) = some 0x00000116#32 := by decide
theorem test_powmod_maximum_work :
    ends (exec .powmod (held 2#32 2#32 0xFFFFFFFF#32 0xFFFFFFFB#32 0 0 divs23)) =
      some (0x20#32, 0#4) := by decide +kernel
theorem test_powmod_exponent_0_modulus_1 :
    ends (exec .powmod (held 2#32 9#32 0#32 1#32 0 0 divs23)) = some (0#32, 0#4) := by decide
theorem test_isprime_65521 :
    ends (exec .isprime (held 3#32 0x0000FFF1#32 0 0 0 0 divs23)) = some (1#32, 0#4) := by
  decide +kernel
theorem test_isprime_square_of_7 :
    ends (exec .isprime (held 3#32 49#32 0 0 0 0 divs23)) = some (0#32, 0#4) := by decide
theorem test_isprimeS_negative :
    ends (exec .isprimeS (held 0x103#32 0xFFFFFFFB#32 0 0 0 0 divs23)) = some (0#32, 0#4) := by decide
theorem test_isprimeS_23 :
    ends (exec .isprimeS (held 0x103#32 23#32 0 0 0 0 divs23)) = some (1#32, 0#4) := by decide
theorem test_mulord_reduces_r :
    ends (exec .mulord (held 4#32 0xFFFFFFFF#32 0 23#32 22#32 4 divs23)) = some (22#32, 0#4) := by
  decide +kernel
theorem test_mulord_not_ascending :
    ends (exec .mulord (held 4#32 2#32 0 23#32 0 4
      #v[22#32, 11#32, 2#32, 1#32, 0#32, 0#32, 0#32, 0#32])) = some (22#32, 0#4) := by decide +kernel
theorem test_isprimroot_sentinel_is_totient :
    ends (exec .isprimroot (held 5#32 3#32 0 1#32 0#32 2 divs23)) = some (1#32, 0#4) := by decide
theorem test_isprimroot_bad_divcnt :
    statusOf (exec .isprimroot (held 5#32 5#32 0 23#32 22#32 9 divs23)) = some 0x546#32 := by decide
/-- `p = 2`: OPM = 5, OPT = 4, DIV(0..3) = [1, 2, 4, 0], DIVCNT = 3. -/
theorem test_safeprime_2 : (match exec .safeprime (held 6#32 2#32 0 0 0 0 divs23) with
    | .next t => some (t.result, t.opm, t.opt, t.divcnt, t.div[2], t.div[3]) | _ => none) =
      some (5#32, 5#32, 4#32, 3#4, 4#32, 0#32) := by decide
theorem test_safeprime_4_fails_both :
    ends (exec .safeprime (held 6#32 4#32 0 0 0 0 divs23)) = some (3#32, 2#4) := by decide
theorem test_illegal_word :
    statusOf (completion (held 0x101#32 7#32 9#32 0 0 0 divs23)) = some 0x00000156#32 := by decide

/-! ### The datapath's step counts (95_test_vectors.md 2.1, 2.2) -/

theorem test_datapath_mulmod :
    Datapath.mulmod 0x075BCD15#32 0x3ADE68B1#32 0x3B9ACA07#32 = ⟨0x0F71A82B#32, 27⟩ := by
  decide +kernel
theorem test_datapath_mulmod_fast :
    Datapath.mulmod 0x0000FFFF#32 0x0000FFFF#32 0xFFFFFFFF#32 = ⟨0xFFFE0001#32, 0⟩ := by decide +kernel
theorem test_datapath_powmod : Datapath.powmod 10#32 9#32 23#32 = ⟨20#32, 6⟩ := by decide +kernel
theorem test_datapath_isprime : (Datapath.prime32 0x00000031#32).value = false := by decide +kernel

/-! ### The port (95_test_vectors.md 2.6), for a window at 0x1000 -/

theorem test_status_after_drop :
    statusOf (stepAt 0x1000 { held 1#32 0 0 0 0 0 divs23 with events := [.write 0x1010 4 2#32] }) =
      some 0x00000109#32 := by decide
theorem test_status_w1c : statusOf (stepAt 0x1000 { State.reset with
    done := true, ovr := true, lastop := 1#8, events := [.write 0x100C 4 0x0000000A#32] }) =
      some 0x00000100#32 := by decide
theorem test_ctrl_soft_reset : (match stepAt 0x1000 { held 1#32 5#32 0 0 0 0 divs23 with
    events := [.write 0x1008 4 3#32] } with
    | .next t => some (t.opa, t.ie, t.busy, t.reply) | _ => none) =
      some (0#32, false, false, some .done) := by decide
theorem test_ctrl_ie : (match stepAt 0x1000 { State.reset with
    events := [.write 0x1008 4 0xFFFFFFFD#32] } with
    | .next t => some (t.readReg .ctrl) | _ => none) = some 1#32 := by decide
theorem test_divcnt_keeps_4_bits : (match stepAt 0x1000 { State.reset with
    events := [.write 0x1018 4 0x1F#32] } with
    | .next t => some (t.readReg .divcnt) | _ => none) = some 0xF#32 := by decide
theorem test_read_id : replyOf (stepAt 0x1000 { State.reset with events := [.read 0x1000 4] }) =
    some (.data 0x4D4D3332#32) := by decide
theorem test_read_reserved : replyOf (stepAt 0x1000 { State.reset with events := [.read 0x10FC 4] }) =
    some (.data 0#32) := by decide
theorem test_misaligned_read : replyOf (stepAt 0x1000 { State.reset with events := [.read 0x1002 4] }) =
    some .busError := by decide
theorem test_byte_read : replyOf (stepAt 0x1000 { State.reset with events := [.read 0x1000 1] }) =
    some .busError := by decide
theorem test_outside_window : replyOf (stepAt 0x1000 { State.reset with events := [.read 0x1100 4] }) =
    none := by decide
theorem test_pin_aborts : (match stepAt 0x1000 { held 1#32 5#32 0 0 0 0 divs23 with
    events := [.resetLow] } with
    | .next t => some (t.busy, t.engine, t.inReset) | _ => none) = some (false, .idle, true) := by
  decide
theorem test_engine_turn_idle : step { State.reset with events := [.engine] } = .next State.reset := rfl
theorem test_fetch_word_safeprime : ends (step (State.reset.withFetchWord 32 6)) = some (3#32, 2#4) := by
  decide

/-! ### The host's side -/

/-- The source's S7: `findPrimitiveRoots(11, limit=3)` returns `[5, 7, 10]`. -/
theorem test_search_11_limit_3 :
    rootsOf (Driver.findPrimitiveRoots 0x1000 11#32 3 State.reset) = some [5, 7, 10] := by
  decide +kernel
/-- The source's S8: `findPrimitiveRoots(4)` fails. -/
theorem test_search_4_fails :
    rootsOf (Driver.findPrimitiveRoots 0x1000 4#32 0 State.reset) = none := by decide +kernel
/-- R156: "the roots of 5 are 2 and 3", found by two units with two candidates each (R223). -/
theorem test_parallel_search_2 :
    (match Driver.parallelSearch 2#32 1 [⟨0x1000, 2, State.reset⟩, ⟨0x1100, 2, State.reset⟩] with
      | .next rs => Driver.concatenated rs | _ => none) = some [2, 3] := by decide +kernel
theorem test_setdiv : (Driver.Line.setdiv [1#32, 2#32]).transactions 0x1000 =
    [.write 0x1040 4 1#32, .write 0x1044 4 2#32, .write 0x1018 4 2#32] := by decide
/-- Program P1, steps 4 to 6. -/
theorem test_call_lines : (Driver.Line.call .mulmod 1).transactions 0x1000 =
    [.write 0x1010 4 1#32, .read 0x100C 4, .read 0x1014 4] := by decide
theorem test_call_end_range : Driver.callEnd 3#4 = .notPrimeError := by decide
/-- R223: a transaction reaches the port of the unit it selects. -/
theorem test_route : (System.route (System.reset [16, 17]) (.read 0x1104 4)).map
    (fun u => u.block.events) = [[], [.read 0x1104 4]] := by decide

/-! ### Witnesses: for each statement with hypotheses, a state and operands that meet them -/

/-- The held command of `held`. -/
theorem held_busy (w a b m t : Word) (cnt : BitVec 4) (d : DivFile) :
    (held w a b m t cnt d).engine = .busy ⟨CmdFields.ofWord w, a, b, m, t, cnt, d⟩ := rfl

/-- A state after acceptance meets the invariant. -/
theorem held_inv : Inv (held 1#32 0 0 0 0 0 divs23) := by
  refine ⟨rfl, by decide, by decide, by decide, by decide, ?_, .inl rfl, fun h => absurd h (by decide),
    fun h => absurd h (by decide)⟩
  intro q h
  rw [held_busy] at h
  injection h with h
  subst h
  rfl

/-- `trialPrime` holds of 2, 5 and 7, and not of 4, 9 or 15. -/
theorem trialPrime_2 : trialPrime 2 := .inl rfl
theorem trialPrime_small {n : Nat} (h2 : 2 ≤ n) (hodd : n % 2 = 1) (h9 : n < 9) : trialPrime n := by
  refine .inr ⟨h2, hodd, fun d _ h3 hs => ?_⟩
  rw [Nat.le_sqrt] at hs
  nlinarith
theorem not_trialPrime_4 : ¬ trialPrime 4 := by
  rintro (h | ⟨-, h, -⟩) <;> omega

theorem witness_IllegalWordIsAcceptedAndReported :
    accepts { State.reset with events := [.write (Config.base + 0x10) 4 0x101#32] } 0x101#32 ∧
    (∃ q why, (held 0x101#32 0 0 0 0 0 divs23).engine = .busy q ∧
      (held 0x101#32 0 0 0 0 0 divs23).inReset = false ∧
      ({ held 0x101#32 0 0 0 0 0 divs23 with events := [.engine] }).events = .engine :: [] ∧
      decodeFields q.cmd = .illegal why) :=
  ⟨⟨⟨rfl, _, rfl⟩, rfl⟩, _, .modifierWithOtherOp, rfl, rfl, rfl, by decide⟩

theorem witness_ResetLeavesTheResetValues :
    (∃ s : State, s.events = .resetLow :: []) ∧
    (∃ s : State, s.inReset = true ∧ s.events = .resetHigh :: []) ∧
    (∃ s t : State, Inv s ∧ s.inReset = true ∧ step s = .next t) :=
  ⟨⟨{ State.reset with events := [.resetLow] }, rfl⟩,
    ⟨{ State.reset with inReset := true, events := [.resetHigh] }, rfl, rfl⟩,
    { State.reset with inReset := true, events := [.engine] }, { State.reset with inReset := true },
    ⟨rfl, by decide, by decide, by decide, rfl, fun q h => by contradiction, .inl rfl,
      fun h => absurd h (by decide), fun _ => rfl⟩, rfl, rfl⟩

theorem witness_RegisterReadReturnsTheTableValue :
    (∃ s : State, s.inReset = false ∧ s.events = .read (Config.base + 0xFC) 4 :: []) ∧
    (0x1C ∉ [0x00, 0x04, 0x08, 0x0C, 0x10, 0x14, 0x18, 0x20, 0x24, 0x28, 0x2C] ∧
      ∀ i : Fin 8, 0x1C ≠ 0x40 + 4 * i.val) :=
  ⟨⟨{ State.reset with events := [.read (Config.base + 0xFC) 4] }, rfl, rfl⟩, by decide, by decide⟩

theorem witness_StatusFieldsAndStatusWrite :
    ∃ s : State, s.inReset = false ∧ s.events = .write (Config.base + 0x0C) 4 0xA#32 :: [] :=
  ⟨{ State.reset with events := [.write (Config.base + 0x0C) 4 0xA#32] }, rfl, rfl⟩

theorem witness_MalformedAccessIsABusErrorOnly :
    (∃ s : State, s.inReset = false ∧ s.events = .read (Config.base + 0xFF) 4 :: [] ∧
      0xFF < 256 ∧ 0xFF % 4 ≠ 0) ∧
    (∃ s : State, s.inReset = false ∧ s.events = .write (Config.base + 0) 1 0#32 :: [] ∧ 1 ≠ 4) :=
  ⟨⟨{ State.reset with events := [.read (Config.base + 0xFF) 4] }, rfl, rfl, by decide, by decide⟩,
    { State.reset with events := [.write (Config.base + 0) 1 0#32] }, rfl, rfl, by decide⟩

theorem witness_ReservedOffsetsAndBitsReadZeroIgnoreWrites :
    (∃ s : State, s.inReset = false ∧ s.events = .read (Config.base + 0x1C) 4 :: []) ∧
    (∃ s : State, s.inReset = false ∧ s.events = .write (Config.base + 0xFC) 4 1#32 :: [] ∧
      0xFC % 4 = 0 ∧ 0x60 ≤ 0xFC) ∧
    (∃ v w : Word, v ≠ w ∧ v.toNat % 4 = w.toNat % 4 ∧ v.toNat % 16 = w.toNat % 16) :=
  ⟨⟨{ State.reset with events := [.read (Config.base + 0x1C) 4] }, rfl, rfl⟩,
    ⟨{ State.reset with events := [.write (Config.base + 0xFC) 4 1#32] }, rfl, rfl, by decide,
      by decide⟩, 1#32, 0x11#32, by decide, by decide, by decide⟩

theorem witness_ReadOnlyRegistersIgnoreWrites : ∀ r : Reg, r = .id ∨ r = .version ∨ r = .result →
    ∃ s : State, s.inReset = false ∧ s.events = .write (Config.base + r.offset) 4 1#32 :: [] :=
  fun r _ => ⟨{ State.reset with events := [.write (Config.base + r.offset) 4 1#32] }, rfl, rfl⟩

theorem witness_OperandWriteStoresAndLeavesTheRest :
    isOperandReg (.div 7) = true ∧ isOperandReg .divcnt = true ∧
    ∀ r : Reg, ∃ s : State, s.inReset = false ∧
      s.events = .write (Config.base + r.offset) 4 0x1F#32 :: [] :=
  ⟨rfl, rfl, fun r =>
    ⟨{ State.reset with events := [.write (Config.base + r.offset) 4 0x1F#32] }, rfl, rfl⟩⟩

theorem witness_CtrlWriteSetsIeOrSoftResets : ∀ v : Word, ∃ s : State, s.inReset = false ∧
    s.events = .write (Config.base + 0x08) 4 v :: [] :=
  fun v => ⟨{ State.reset with events := [.write (Config.base + 0x08) 4 v] }, rfl, rfl⟩

theorem witness_CmdWriteWhileIdleIsAccepted : ∃ s : State, s.inReset = false ∧ s.engine = .idle ∧
    s.events = .write (Config.base + 0x10) 4 6#32 :: [] :=
  ⟨{ State.reset with events := [.write (Config.base + 0x10) 4 6#32] }, rfl, rfl, rfl⟩

theorem witness_CmdWriteWhileBusyIsDropped : ∃ (s : State) (q : Snapshot), s.inReset = false ∧
    s.engine = .busy q ∧ s.events = .write (Config.base + 0x10) 4 6#32 :: [] :=
  ⟨{ held 1#32 0 0 0 0 0 divs23 with events := [.write (Config.base + 0x10) 4 6#32] }, _, rfl, rfl,
    rfl⟩

theorem witness_UnselectedAddressLeavesTheBlock :
    ∃ (s : State) (addr : Nat), Config.base + 256 ≤ addr ∧ s.events = .read addr 4 :: [] :=
  ⟨{ State.reset with events := [.read (Config.base + 256) 4] }, Config.base + 256, le_rfl, rfl⟩

theorem witness_TransactionDuringResetIsRefused : ∃ s : State, s.inReset = true ∧
    s.events = .read (Config.base + 255) 1 :: [] :=
  ⟨{ State.reset with inReset := true, events := [.read (Config.base + 255) 1] }, rfl, rfl⟩

theorem witness_StepRunsTheDecodedCommand : ∃ (s : State) (q : Snapshot), s.inReset = false ∧
    s.engine = .busy q ∧ decodeFields q.cmd = .legal .mulord ∧ s.events = .engine :: [] :=
  ⟨{ held 4#32 0 0 0 0 0 divs23 with events := [.engine] }, _, rfl, rfl, by decide, rfl⟩

/-- Any operands of any command can be held (the hypothesis of the statements on one command). -/
theorem witness_held_command (w a b m t : Word) (cnt : BitVec 4) (d : DivFile) :
    ∃ (s : State) (q : Snapshot), s.engine = .busy q ∧ q.cmd = CmdFields.ofWord w ∧ q.a = a ∧
      q.b = b ∧ q.m = m ∧ q.t = t ∧ q.divcnt = cnt ∧ q.div = d :=
  ⟨held w a b m t cnt d, _, rfl, rfl, rfl, rfl, rfl, rfl, rfl, rfl⟩

theorem witness_NopKeepsResultAndClearsTheError :
    ∃ q, (held 0#32 0 0 0 0 0 divs23).engine = .busy q := ⟨_, rfl⟩

theorem witness_MulmodResultIsTheReducedProduct :
    (∃ q, (held 1#32 5#32 6#32 0#32 0 0 divs23).engine = .busy q ∧ q.m = 0#32) ∧
    (∃ q, (held 1#32 5#32 6#32 1#32 0 0 divs23).engine = .busy q ∧ q.m ≠ 0#32) :=
  ⟨⟨_, rfl, rfl⟩, _, rfl, by decide⟩

theorem witness_PowmodResultIsTheReducedPower :
    (∃ q, (held 2#32 0#32 0#32 0#32 0 0 divs23).engine = .busy q ∧ q.m = 0#32) ∧
    (∃ q, (held 2#32 0#32 0#32 7#32 0 0 divs23).engine = .busy q ∧ q.m ≠ 0#32) :=
  ⟨⟨_, rfl, rfl⟩, _, rfl, by decide⟩

theorem witness_IsprimeResultIsTheTrialDivision :
    ∃ q, (held 3#32 7#32 0 0 0 0 divs23).engine = .busy q ∧ trialPrime q.a.toNat :=
  ⟨_, rfl, trialPrime_small (by decide) (by decide) (by decide)⟩

theorem witness_IsprimeSResultReadsASignedOperand :
    (∃ q, (held 0x103#32 7#32 0 0 0 0 divs23).engine = .busy q ∧ 0 ≤ q.a.toInt) ∧
    (∃ q, (held 0x103#32 0x80000000#32 0 0 0 0 divs23).engine = .busy q ∧ q.a.toInt < 0) :=
  ⟨⟨_, rfl, by decide⟩, _, rfl, by decide⟩

theorem witness_MulordResultIsTheFirstMatchingDivisor :
    (∃ q, (held 4#32 5#32 0 0#32 0 9 divs23).engine = .busy q ∧ q.m = 0#32) ∧
    (∃ q, (held 4#32 5#32 0 23#32 0 9 divs23).engine = .busy q ∧ q.m ≠ 0#32 ∧
      8 < q.divcnt.toNat) ∧
    (∃ q, (held 4#32 5#32 0 23#32 0 8 divs23).engine = .busy q ∧ q.m ≠ 0#32 ∧
      q.divcnt.toNat ≤ 8) :=
  ⟨⟨_, rfl, rfl⟩, ⟨_, rfl, by decide, by decide⟩, _, rfl, by decide, by decide⟩

theorem witness_IsprimrootComparesTheOrderWithTheTotient :
    (∃ q, (held 5#32 5#32 0 0#32 22#32 9 divs23).engine = .busy q ∧ q.m = 0#32) ∧
    (∃ q, (held 5#32 5#32 0 23#32 22#32 9 divs23).engine = .busy q ∧ q.m ≠ 0#32 ∧
      8 < q.divcnt.toNat) ∧
    (∃ q, (held 5#32 5#32 0 23#32 22#32 0 divs23).engine = .busy q ∧ q.m ≠ 0#32 ∧
      q.divcnt.toNat ≤ 8) :=
  ⟨⟨_, rfl, rfl⟩, ⟨_, rfl, by decide, by decide⟩, _, rfl, by decide, by decide⟩

theorem witness_SafeprimeDerivesChecksAndLoads :
    (∃ q, (held 6#32 0x80000000#32 0 0 0 0 divs23).engine = .busy q ∧ 2 ^ 31 ≤ q.a.toNat) ∧
    (∃ q, (held 6#32 4#32 0 0 0 0 divs23).engine = .busy q ∧ q.a.toNat < 2 ^ 31 ∧
      ¬ (trialPrime (2 * q.a.toNat + 1) ∧ trialPrime q.a.toNat)) ∧
    (∃ q, (held 6#32 2#32 0 0 0 0 divs23).engine = .busy q ∧ q.a.toNat < 2 ^ 31 ∧
      trialPrime (2 * q.a.toNat + 1) ∧ trialPrime q.a.toNat ∧ q.a = 2#32) ∧
    (∃ q, (held 6#32 3#32 0 0 0 0 divs23).engine = .busy q ∧ q.a.toNat < 2 ^ 31 ∧
      trialPrime (2 * q.a.toNat + 1) ∧ trialPrime q.a.toNat ∧ q.a ≠ 2#32) :=
  ⟨⟨_, rfl, by decide⟩, ⟨_, rfl, by decide, fun h => not_trialPrime_4 h.2⟩,
    ⟨_, rfl, by decide, trialPrime_small (by decide) (by decide) (by decide), trialPrime_2, rfl⟩,
    _, rfl, by decide, trialPrime_small (by decide) (by decide) (by decide),
    trialPrime_small (by decide) (by decide) (by decide), by decide⟩

theorem witness_ErrorCodeIsTheHighestRankedCondition :
    ∃ q, (held 4#32 5#32 0 0#32 0 9 divs23).engine = .busy q ∧ q.m = 0#32 ∧ 8 < q.divcnt.toNat :=
  ⟨_, rfl, rfl, by decide⟩

theorem witness_ErroredCommandWritesOnlyResultAndStatus : ∃ s t : State, completes s ∧
    s.events = .engine :: [] ∧ step s = .next t ∧ t.err = true :=
  ⟨{ held 1#32 5#32 6#32 0#32 0 0 divs23 with events := [.engine] },
    State.raise (held 1#32 5#32 6#32 0#32 0 0 divs23) .invalidModulus 0#32,
    ⟨rfl, rfl, .inr ⟨[], rfl⟩⟩, rfl, rfl, rfl⟩

theorem witness_CompletionFrame : ∃ s t : State, exec .safeprime s = .next t ∧ t.err = true :=
  ⟨held 6#32 0x80000000#32 0 0 0 0 divs23,
    State.raise (held 6#32 0x80000000#32 0 0 0 0 divs23) .range 0#32, rfl, rfl⟩

theorem witness_OutcomeDependsOnTheSnapshotOnly :
    Instr.mulmod ≠ .nop ∧ ∃ q, (held 1#32 5#32 6#32 7#32 0 0 divs23).engine = .busy q :=
  ⟨by decide, _, rfl⟩

theorem witness_PowmodOfExponentZero :
    (∃ q, (held 2#32 9#32 0#32 2#32 0 0 divs23).engine = .busy q ∧ q.b = 0#32 ∧ 1 < q.m.toNat) ∧
    (∃ q, (held 2#32 9#32 0#32 1#32 0 0 divs23).engine = .busy q ∧ q.m = 1#32) :=
  ⟨⟨_, rfl, rfl, by decide⟩, _, rfl, rfl⟩

theorem witness_IsprimeDecidesPrimality :
    ∃ q, (held 3#32 23#32 0 0 0 0 divs23).engine = .busy q ∧ q.a.toNat.Prime :=
  ⟨_, rfl, by decide⟩

theorem witness_PowmodFermatProperty :
    ∃ q, (held 2#32 5#32 22#32 23#32 0 0 divs23).engine = .busy q ∧ q.m.toNat.Prime ∧
      1 ≤ q.a.toNat ∧ q.a.toNat < q.m.toNat ∧ q.b.toNat = q.m.toNat - 1 :=
  ⟨_, rfl, by decide, by decide, by decide, by decide⟩

theorem witness_MulordCornerCases :
    (∃ q, (held 4#32 3#32 0 1#32 0 2 divs23).engine = .busy q ∧ q.m ≠ 0#32 ∧ q.m = 1#32) ∧
    (∃ q, (held 4#32 46#32 0 23#32 0 4 divs23).engine = .busy q ∧ q.a.toNat % q.m.toNat = 0) ∧
    (∃ q, (held 4#32 5#32 0 23#32 0 0 divs23).engine = .busy q ∧ q.divcnt = 0#4) ∧
    (∃ q, (held 4#32 5#32 0 23#32 0 8 divs23).engine = .busy q ∧ q.divcnt.toNat ≤ 8 ∧
      q.div[7] = 0#32 ∧ 1 < q.m.toNat) ∧
    (∃ a : Word, a ≠ 5#32 ∧ a.toNat % 23 = (5#32).toNat % 23) :=
  ⟨⟨_, rfl, by decide, rfl⟩, ⟨_, rfl, by decide⟩, ⟨_, rfl, rfl⟩,
    ⟨_, rfl, by decide, by decide, by decide⟩, 28#32, by decide, by decide⟩

theorem witness_SafePrimeOrderIsTheMultiplicativeOrder :
    ∃ (s u : State) (q : Snapshot), Nat.Prime 11 ∧ Nat.Prime (2 * 11 + 1) ∧ s.engine = .busy q ∧
      q = (u.load (orderLoad 11)).capture 4#32 ∧ q.a.toNat % (2 * 11 + 1) ≠ 0 :=
  ⟨State.accept (State.load { State.reset with opa := 5#32 } (orderLoad 11)) 4#32,
    { State.reset with opa := 5#32 }, _, by norm_num, by norm_num, rfl, rfl, by decide⟩

/-- The same for `p = 2`, whose divisor set has three elements (R153). -/
theorem witness_SafePrimeOrderIsTheMultiplicativeOrder_2 :
    ∃ (s u : State) (q : Snapshot), Nat.Prime 2 ∧ Nat.Prime (2 * 2 + 1) ∧ s.engine = .busy q ∧
      q = (u.load (orderLoad 2)).capture 4#32 ∧ q.a.toNat % (2 * 2 + 1) ≠ 0 :=
  ⟨State.accept (State.load { State.reset with opa := 3#32 } (orderLoad 2)) 4#32,
    { State.reset with opa := 3#32 }, _, by norm_num, by norm_num, rfl, rfl, by decide⟩

theorem witness_NumberOfPrimitiveRoots :
    (Nat.Prime 2 ∧ Nat.Prime (2 * 2 + 1)) ∧ (Nat.Prime 3 ∧ Nat.Prime (2 * 3 + 1)) := by norm_num

theorem witness_ModularAdderIsExact :
    (0xFFFFFFFE#32).toNat < (0xFFFFFFFF#32).toNat ∧ (0#32).toNat < (1#32).toNat := by decide

theorem witness_datapath_modulus : (1#32 : Word) ≠ 0#32 ∧ (0xFFFFFFFF#32 : Word) ≠ 0#32 := by decide

theorem witness_MulmodIterationBound :
    ((0xFFFF#32 : Word) % 0xFFFFFFFF#32).toNat ≤ 0xFFFF ∧ (0xFFFFFFFF#32 : Word) ≠ 0#32 := by decide

theorem witness_TrialAndOrderStepBounds :
    (List.replicate 8 (1#32 : Word)).length ≤ 8 ∧ (0x7FFFFFFF#32).toNat < 2 ^ 31 := by decide

theorem witness_EveryStepKeepsTheInvariant : ∃ s t : State, Inv s ∧ step s = .next t :=
  ⟨held 1#32 0 0 0 0 0 divs23, State.raise (held 1#32 0 0 0 0 0 divs23) .invalidModulus 0#32, held_inv,
    rfl⟩

theorem witness_PhaseMovesOnlyByAcceptanceCompletionReset :
    (∃ s, accepts s 1#32) ∧ (∃ s, completes s) ∧ (∃ s, resets s) ∧
    (∃ s t : State, step s = .next t ∧ t.engine ≠ s.engine) :=
  ⟨⟨{ State.reset with events := [.write (Config.base + 0x10) 4 1#32] }, ⟨rfl, _, rfl⟩, rfl⟩,
    ⟨held 1#32 0 0 0 0 0 divs23, rfl, rfl, .inl rfl⟩,
    ⟨{ State.reset with events := [.resetLow] }, .inr (.inl ⟨_, rfl⟩)⟩,
    held 1#32 0 0 0 0 0 divs23, State.raise (held 1#32 0 0 0 0 0 divs23) .invalidModulus 0#32,
    rfl, by decide⟩

theorem witness_OvrIsSetByADropAndClearedByWriteOrReset :
    servesWrite { held 1#32 0 0 0 0 0 divs23 with
      events := [.write (Config.base + 0x10) 4 2#32] } 0x10 2#32 ∧
    (∃ s t : State, step s = .next t ∧ s.ovr = true ∧ t.ovr = false) :=
  ⟨⟨rfl, _, rfl⟩, { State.reset with ovr := true, events := [.resetLow] },
    { State.reset with inReset := true }, rfl, rfl, rfl⟩

theorem witness_CommandRecordFollowsAcceptance :
    (∃ s, drops s) ∧ (∃ s t : State, step s = .next t ∧ t.cmd ≠ s.cmd) ∧
    (∃ s, accepts s 0x101#32) :=
  ⟨⟨{ held 1#32 0 0 0 0 0 divs23 with events := [.write (Config.base + 0x10) 4 2#32] }, 2#32,
      ⟨rfl, _, rfl⟩, rfl⟩,
    ⟨{ held 1#32 0 0 0 0 0 divs23 with events := [.resetLow] },
      { State.reset with inReset := true }, rfl, by decide⟩,
    { State.reset with events := [.write (Config.base + 0x10) 4 0x101#32] }, ⟨rfl, _, rfl⟩, rfl⟩

theorem witness_DoneAndErrorChangeOnlyAsStated :
    (∃ s, Inv s ∧ servesWrite s 0x0C 2#32 ∧ (2#32 : Word).getLsbD 1 = true) ∧
    (∃ s t : State, step s = .next t ∧ t.done ≠ s.done ∧ t.err ≠ s.err) :=
  ⟨⟨{ State.reset with events := [.write (Config.base + 0x0C) 4 2#32] },
      ⟨by decide, by decide, by decide, by decide, by decide, fun q h => by contradiction, .inl rfl,
        fun h => absurd h (by decide), fun h => absurd h (by decide)⟩, ⟨rfl, _, rfl⟩, by decide⟩,
    held 1#32 0 0 0 0 0 divs23, State.raise (held 1#32 0 0 0 0 0 divs23) .invalidModulus 0#32,
    rfl, by decide, by decide⟩

theorem witness_ResultIsWrittenByCompletionOnly :
    ∃ s t : State, step s = .next t ∧ t.result ≠ s.result :=
  ⟨held 1#32 2#32 3#32 7#32 0 0 divs23,
    State.complete (held 1#32 2#32 3#32 7#32 0 0 divs23) 6#32, rfl, by decide⟩

theorem witness_InterruptRisesAndFallsAsStated :
    (∃ s t : State, step s = .next t ∧ s.irq = false ∧ t.irq = true ∧ completes s ∧
      s.ie = true) ∧
    (∃ s t : State, step s = .next t ∧ s.irq = true ∧ t.irq = false) ∧
    (∃ s, servesWrite s 0x08 1#32 ∧ (1#32 : Word).getLsbD 1 = false) :=
  ⟨⟨{ held 1#32 2#32 3#32 7#32 0 0 divs23 with ie := true },
      State.complete { held 1#32 2#32 3#32 7#32 0 0 divs23 with ie := true } 6#32,
      rfl, by decide, by decide, ⟨rfl, rfl, .inl rfl⟩, rfl⟩,
    ⟨{ State.reset with ie := true, done := true, events := [.resetLow] },
      { State.reset with inReset := true }, rfl, by decide, by decide⟩,
    { State.reset with events := [.write (Config.base + 0x08) 4 1#32] }, ⟨rfl, _, rfl⟩, by decide⟩

theorem witness_OperandWriteWhileBusyDoesNotReachTheCommand : ∃ s : State, Inv s ∧
    s.inReset = false ∧ s.engine.isBusy = true ∧ isOperandReg .opm = true ∧ Reg.opt ≠ Reg.opm :=
  ⟨held 1#32 0 0 0 0 0 divs23, held_inv, rfl, rfl, rfl, by decide⟩

theorem witness_SafeprimeRaceAdmitsBothOutcomes : ∃ (s : State) (q : Snapshot), s.inReset = false ∧
    s.engine = .busy q ∧ q.cmd = Instr.safeprime.fields ∧ q.a.toNat < 2 ^ 31 ∧ q.a.toNat.Prime ∧
    (2 * q.a.toNat + 1).Prime ∧ isLoadedReg (.div 3) = true ∧ isLoadedReg .divcnt = true :=
  ⟨held 6#32 11#32 0 0 0 0 divs23, _, rfl, rfl, by decide, by decide, by decide, by decide, by decide,
    rfl⟩

theorem witness_BusyCommandEndsWithinItsEvents : ∃ s : State, Inv s ∧ s.busy = true :=
  ⟨held 1#32 0 0 0 0 0 divs23, held_inv, rfl⟩

theorem witness_UnitsShareNoState : ∃ (sys sys' : System) (k : Nat), sys.stepUnit k = .next sys' ∧
    1 < sys.length :=
  ⟨System.reset [0, 1], System.reset [0, 1], 1, rfl, by decide⟩

theorem witness_CallReturnsResultAndErrcode : State.reset.inReset = false ∧
    State.reset.engine = .idle := ⟨rfl, rfl⟩

theorem witness_ParallelSearchEqualsTheSequential :
    [(⟨0x1000, 10, State.reset⟩ : Driver.Share), ⟨0x1100, 12, State.reset⟩] ≠ [] ∧
    (∀ x ∈ [(⟨0x1000, 10, State.reset⟩ : Driver.Share), ⟨0x1100, 12, State.reset⟩],
      x.block.inReset = false ∧ x.block.engine = .idle) ∧
    ([(⟨0x1000, 10, State.reset⟩ : Driver.Share), ⟨0x1100, 12, State.reset⟩].map
      fun x => x.count).sum = 2 * (11#32).toNat := by decide

theorem witness_PrimitiveRootSearchIsCorrect :
    (Nat.Prime (11#32).toNat ∧ Nat.Prime (2 * (11#32).toNat + 1) ∧ (11#32).toNat < 2 ^ 31) ∧
    ¬ Nat.Prime (4#32).toNat := by decide

end Sys2Proof.Tests
end

/-! SUPPORT. How a held command ends, and what a step does to STATUS, CMD, RESULT and the engine. -/

namespace Sys2Proof.Machine

/-! ### The outcome of a command -/

/-- The error code an outcome leaves, 0 for none (R45, R201). -/
def CommandOutcome.code : CommandOutcome → BitVec 4
  | .complete _ => 0#4
  | .completeLoading _ _ => 0#4
  | .raise e _ => e.code

/-- The value an outcome leaves in RESULT (R45). -/
def CommandOutcome.value : CommandOutcome → Word
  | .complete v => v
  | .completeLoading v _ => v
  | .raise _ info => info

section Conclude
variable (s : State) (o : CommandOutcome)

@[simp] theorem State.conclude_ie : (s.conclude o).ie = s.ie := by cases o <;> rfl
@[simp] theorem State.conclude_busy : (s.conclude o).busy = false := by cases o <;> rfl
@[simp] theorem State.conclude_done : (s.conclude o).done = true := by cases o <;> rfl
@[simp] theorem State.conclude_err : (s.conclude o).err = (o.code != 0#4) := by cases o <;> rfl
@[simp] theorem State.conclude_ovr : (s.conclude o).ovr = s.ovr := by cases o <;> rfl
@[simp] theorem State.conclude_errcode : (s.conclude o).errcode = o.code := by cases o <;> rfl
@[simp] theorem State.conclude_lastop : (s.conclude o).lastop = s.lastop := by cases o <;> rfl
@[simp] theorem State.conclude_cmd : (s.conclude o).cmd = s.cmd := by cases o <;> rfl
@[simp] theorem State.conclude_result : (s.conclude o).result = o.value := by cases o <;> rfl
@[simp] theorem State.conclude_opa : (s.conclude o).opa = s.opa := by cases o <;> rfl
@[simp] theorem State.conclude_opb : (s.conclude o).opb = s.opb := by cases o <;> rfl
@[simp] theorem State.conclude_engine : (s.conclude o).engine = .idle := by cases o <;> rfl
@[simp] theorem State.conclude_inReset : (s.conclude o).inReset = s.inReset := by cases o <;> rfl
@[simp] theorem State.conclude_events : (s.conclude o).events = s.events := by cases o <;> rfl
@[simp] theorem State.conclude_reply : (s.conclude o).reply = s.reply := by cases o <;> rfl

/-- DIV(4..7) are written by no completion (R150). -/
theorem State.conclude_div_high {i : Nat} (hi : 4 ≤ i) (h8 : i < 8) :
    (s.conclude o).div[i] = s.div[i] := by
  cases o with
  | completeLoading v side =>
    simp only [State.conclude, State.complete, State.finish_div, State.load_div]
    repeat rw [Vector.getElem_set_ne _ _ (by omega)]
  | complete v | raise e info => rfl

/-- An outcome without side writes leaves every operand register. -/
theorem State.conclude_operands (h : ∀ v side, o ≠ .completeLoading v side) :
    (s.conclude o).opm = s.opm ∧ (s.conclude o).opt = s.opt ∧
      (s.conclude o).divcnt = s.divcnt ∧ (s.conclude o).div = s.div := by
  cases o with
  | completeLoading v side => exact absurd rfl (h v side)
  | _ => exact ⟨rfl, rfl, rfl, rfl⟩

end Conclude

/-- Every command but NOP computes from its snapshot only (R48). -/
theorem ruleOf_eq_of_ne_nop {i : Instr} (h : i ≠ .nop) (s u : State) : ruleOf s i = ruleOf u i := by
  cases i with
  | nop => exact absurd rfl h
  | _ => rfl

/-- SAFEPRIME alone has side writes (R150). -/
theorem eq_safeprime_of_loading {s : State} {i : Instr} {q : Snapshot} {v : Word} {side : OrderLoad}
    (h : ruleOf s i q = .completeLoading v side) : i = .safeprime := by
  cases i with
  | safeprime => rfl
  | nop => cases h
  | isprime => cases h
  | isprimeS =>
    simp only [ruleOf, isprimeSRule] at h
    split_ifs at h
  | mulmod =>
    simp only [ruleOf, mulmodRule] at h
    split_ifs at h
  | powmod =>
    simp only [ruleOf, powmodRule] at h
    split_ifs at h
  | mulord =>
    simp only [ruleOf, mulordRule] at h
    split_ifs at h
  | isprimroot =>
    simp only [ruleOf, isprimrootRule] at h
    split_ifs at h

/-- A command's rule leaves a code that the command can raise (R201). -/
theorem codeRaisedBy_ruleOf (s : State) (i : Instr) (q : Snapshot) :
    codeRaisedBy (ruleOf s i q).code (.legal i) := by
  cases i with
  | nop => exact .inl rfl
  | isprime => exact .inl rfl
  | isprimeS =>
    simp only [ruleOf, isprimeSRule]
    split_ifs <;> exact .inl rfl
  | mulmod =>
    simp only [ruleOf, mulmodRule]
    split_ifs <;> simp [codeRaisedBy, CommandOutcome.code, CommandError.code]
  | powmod =>
    simp only [ruleOf, powmodRule]
    split_ifs <;> simp [codeRaisedBy, CommandOutcome.code, CommandError.code]
  | mulord =>
    simp only [ruleOf, mulordRule]
    split_ifs <;> simp [codeRaisedBy, CommandOutcome.code, CommandError.code]
  | isprimroot =>
    simp only [ruleOf, isprimrootRule]
    split_ifs <;> simp [codeRaisedBy, CommandOutcome.code, CommandError.code]
  | safeprime =>
    simp only [ruleOf, safeprimeRule]
    split_ifs <;> simp [codeRaisedBy, CommandOutcome.code, CommandError.code]

/-- How the held command `q` ends in `s` (R162): by its rule, or with ILLEGAL_CMD (R77). -/
def endOf (s : State) (q : Snapshot) : CommandOutcome :=
  match decodeFields q.cmd with
  | .legal i => ruleOf s i q
  | .illegal _ => .raise .illegalCmd 0#32

/-- A legal word ends by its rule. -/
theorem endOf_legal {q : Snapshot} {i : Instr} (h : decodeFields q.cmd = .legal i) (s : State) :
    endOf s q = ruleOf s i q := by
  simp [endOf, h]

/-- An illegal word ends with ILLEGAL_CMD and RESULT 0. -/
theorem endOf_illegal {q : Snapshot} {why : IllegalCause} (h : decodeFields q.cmd = .illegal why)
    (s : State) : endOf s q = .raise .illegalCmd 0#32 := by
  simp [endOf, h]

/-- How a command ends does not depend on the state but for RESULT, which NOP keeps (R48, R163). -/
theorem endOf_congr {s u : State} (h : u.result = s.result) (q : Snapshot) :
    endOf u q = endOf s q := by
  cases hd : decodeFields q.cmd with
  | illegal why => rw [endOf_illegal hd, endOf_illegal hd]
  | legal i =>
    rw [endOf_legal hd, endOf_legal hd]
    by_cases hi : i = .nop
    · subst hi
      simp only [ruleOf, h]
    · rw [ruleOf_eq_of_ne_nop hi u s]

/-- A command ends with a code that its word can raise, an illegal word included (R201). -/
theorem codeRaisedBy_endOf (s : State) (q : Snapshot) :
    codeRaisedBy (endOf s q).code (decodeFields q.cmd) := by
  cases hd : decodeFields q.cmd with
  | illegal why =>
    rw [endOf_illegal hd]
    simp [codeRaisedBy, CommandOutcome.code, CommandError.code]
  | legal i =>
    rw [endOf_legal hd]
    exact codeRaisedBy_ruleOf s i q

/-! ### A step by what it does -/

@[simp] theorem Engine.isBusy_idle : Engine.idle.isBusy = false := rfl
@[simp] theorem Engine.isBusy_busy (q : Snapshot) : (Engine.busy q).isBusy = true := rfl

/-- The phase is BUSY exactly while the engine holds a snapshot (R43, R44). -/
theorem Engine.isBusy_iff (e : Engine) : e.isBusy = true ↔ ∃ q, e = .busy q := by
  cases e <;> simp

/-- The step that serves a register write, with the events it leaves. -/
theorem step_writeReg {s : State} {reg : Reg} {v : Word} {rest : List Event}
    (hr : s.inReset = false) (he : s.events = .write (Config.base + reg.offset) 4 v :: rest) :
    step s = .next (((s.withEvents rest).writeReg reg v).answer (some .done)) := by
  rw [step_write hr reg.offset_lt reg.offset_aligned he, State.writeOffset_reg]

/-- The step that completes the held command. -/
theorem step_of_completes {s : State} (h : completes s) :
    ∃ q es, s.engine = .busy q ∧ step s = .next ((s.withEvents es).conclude (endOf s q)) := by
  obtain ⟨q, es, hq, ⟨i, hi, ht⟩ | ⟨why, hw, ht⟩⟩ := step_completes h
  · exact ⟨q, es, hq, by rw [ht, endOf_legal hi]⟩
  · exact ⟨q, es, hq, by rw [ht, endOf_illegal hw]; rfl⟩

/-- The step that accepts a command word. -/
theorem step_of_accepts {s : State} {w : Word} (h : accepts s w) :
    ∃ es, step s = .next (((s.withEvents es).accept w).answer (some .done)) := by
  obtain ⟨hw, hidle⟩ := h
  obtain ⟨es, ht⟩ := step_servesWrite (reg := .cmd) hw
  exact ⟨es, by simpa [State.writeReg, State.writeCmd, hidle] using ht⟩

/-- The step that drops a CMD write. -/
theorem step_of_drop {s : State} {w : Word} (hw : servesWrite s 0x10 w)
    (hb : s.engine.isBusy = true) :
    ∃ es, step s = .next ((s.withEvents es).flagsDropped.answer (some .done)) := by
  obtain ⟨q, hq⟩ := (Engine.isBusy_iff _).1 hb
  obtain ⟨es, ht⟩ := step_servesWrite (reg := .cmd) hw
  exact ⟨es, by simpa [State.writeReg, State.writeCmd, hq] using ht⟩

/-- The step of a reset, soft or by the pin. -/
theorem step_of_resets {s : State} (h : resets s) :
    ∃ es r b, step s = .next { State.reset with events := es, reply := r, inReset := b } := by
  rcases h with ⟨v, hw, hv⟩ | ⟨rest, he⟩ | ⟨hr, rest, he⟩
  · obtain ⟨es, ht⟩ := step_servesWrite (reg := .ctrl) hw
    rw [State.writeReg, State.writeCtrl, if_pos hv] at ht
    exact ⟨es, some .done, s.inReset, ht⟩
  · exact ⟨rest, none, true, by simp only [step, stepAt, he, happen]; rfl⟩
  · refine ⟨rest, none, false, ?_⟩
    simp only [step, stepAt, he, happen, State.pinHigh, State.withEvents_inReset, hr, if_true]
    rfl

/-- BUSY, ERR, ERRCODE, LASTOP, CMD and the engine are the same in `t` as in `s`. -/
structure SameRecord (s t : State) : Prop where
  busy    : t.busy = s.busy
  err     : t.err = s.err
  errcode : t.errcode = s.errcode
  lastop  : t.lastop = s.lastop
  cmd     : t.cmd = s.cmd
  engine  : t.engine = s.engine

/-- All of STATUS, CMD, RESULT and the engine are the same in `t` as in `s`. -/
structure SameControl (s t : State) : Prop extends SameRecord s t where
  done    : t.done = s.done
  ovr     : t.ovr = s.ovr
  result  : t.result = s.result

/-- What a step from `s` to a next state does to STATUS, CMD, RESULT and the engine. -/
inductive ControlStep (s : State) : State → Prop where
  | accept (w : Word) (es : List Event) (h : accepts s w) :
      ControlStep s (((s.withEvents es).accept w).answer (some .done))
  | drop (w : Word) (es : List Event) (hw : servesWrite s 0x10 w) (hb : s.engine.isBusy = true) :
      ControlStep s ((s.withEvents es).flagsDropped.answer (some .done))
  | statusWrite (v : Word) (es : List Event) (hw : servesWrite s 0x0C v) :
      ControlStep s (((s.withEvents es).flagsWritten v).answer (some .done))
  | complete (q : Snapshot) (es : List Event) (h : completes s) (hq : s.engine = .busy q) :
      ControlStep s ((s.withEvents es).conclude (endOf s q))
  | reset (es : List Event) (r : Option Reply) (b : Bool) (h : resets s) :
      ControlStep s { State.reset with events := es, reply := r, inReset := b }
  | other {t : State} (same : SameControl s t) : ControlStep s t

/-- Every step is one of these. -/
theorem controlStep_of_step {s t : State} (h : step s = .next t) : ControlStep s t := by
  rcases step_next h with ⟨es, r, rfl⟩ | ⟨reg, v, es, hw, hsoft, rfl⟩ |
    ⟨hc, q, es, hq, ⟨i, hi, rfl⟩ | ⟨why, hill, rfl⟩⟩ | ⟨hr, es, r, b, rfl⟩
  · exact .other ⟨⟨rfl, rfl, rfl, rfl, rfl, rfl⟩, rfl, rfl, rfl⟩
  · rcases (s.withEvents es).writeReg_cases reg v hsoft with
      ⟨rfl, hidle, ht⟩ | ⟨rfl, hb, ht⟩ | ⟨rfl, ht⟩ | ⟨-, -, ht⟩ | ⟨u, hu, ht⟩
    · rw [ht]
      exact .accept v es ⟨hw, hidle⟩
    · rw [ht]
      exact .drop v es hw hb
    · rw [ht]
      exact .statusWrite v es hw
    · rw [ht]
      exact .other ⟨⟨rfl, rfl, rfl, rfl, rfl, rfl⟩, rfl, rfl, rfl⟩
    · rw [hu, ht]
      exact .other ⟨⟨rfl, rfl, rfl, rfl, rfl, rfl⟩, rfl, rfl, rfl⟩
  · rw [← endOf_legal hi]
    exact .complete q es hc hq
  · have hend : (s.withEvents es).finish 5#4 0#32 = (s.withEvents es).conclude (endOf s q) := by
      rw [endOf_illegal hill]
      rfl
    rw [hend]
    exact .complete q es hc hq
  · exact .reset es r b hr

end Sys2Proof.Machine

/-! SUPPORT. The invariant under each operation of the state. -/

namespace Sys2Proof.Machine

/-- The invariant does not speak of the events to come. -/
theorem Inv.withEvents {s : State} (h : Inv s) (es : List Event) : Inv (s.withEvents es) where
  __ := h
  held_in_reset hr := congrArg (State.withEvents · es) (h.held_in_reset hr)

/-- The invariant does not speak of the bus answer. -/
theorem Inv.answer {s : State} (h : Inv s) (r : Option Reply) : Inv (s.answer r) where
  __ := h
  held_in_reset hr := congrArg (State.answer · r) (h.held_in_reset hr)

/-- The invariant in any reset state, with the pin at either level. -/
theorem inv_reset (es : List Event) (r : Option Reply) (b : Bool) :
    Inv { State.reset with events := es, reply := r, inReset := b } where
  busy_phase := rfl
  not_busy_and_done := by simp [State.reset]
  err_code := by simp [State.reset]
  busy_clear := by simp [State.reset]
  lastop_cmd := by simp [State.reset]
  snap_cmd := by simp [State.reset]
  code_raised := .inl rfl
  illegal_reported := by simp [State.reset]
  held_in_reset := fun hr => by
    obtain rfl : b = true := hr
    rfl

/-- Acceptance makes the invariant hold, out of reset. -/
theorem inv_accept {s : State} (hr : s.inReset = false) (w : Word) : Inv (s.accept w) where
  busy_phase := rfl
  not_busy_and_done := by simp
  err_code := by simp
  busy_clear := by simp
  lastop_cmd := rfl
  snap_cmd := by
    intro q hq
    injection hq with hq
    rw [← hq]
    rfl
  code_raised := .inl rfl
  illegal_reported := by simp
  held_in_reset := by simp [hr]

/-- A completion keeps the invariant when the outcome's code is one the last accepted word can
raise, ILLEGAL_CMD if that word is illegal. -/
theorem Inv.conclude {s : State} (h : Inv s) (hr : s.inReset = false) {o : CommandOutcome}
    (hcode : codeRaisedBy o.code (decode s.cmd))
    (hill : (∃ why, decode s.cmd = .illegal why) → o.code = 5#4) : Inv (s.conclude o) where
  busy_phase := by simp
  not_busy_and_done := by simp
  err_code := by simp
  busy_clear := by simp
  lastop_cmd := by simpa using h.lastop_cmd
  snap_cmd := by simp
  code_raised := by simpa using hcode
  illegal_reported := by simpa using hill
  held_in_reset := by simp [hr]

/-- The held command's completion keeps the invariant: its snapshot holds the last accepted word. -/
theorem Inv.conclude_endOf {s : State} (h : Inv s) (hr : s.inReset = false) {q : Snapshot}
    (hq : s.engine = .busy q) : Inv (s.conclude (endOf s q)) := by
  have hword : decode s.cmd = decodeFields q.cmd := by rw [h.snap_cmd q hq, decode]
  refine h.conclude hr ?_ ?_
  · rw [hword]
    exact codeRaisedBy_endOf s q
  · rintro ⟨why, hw⟩
    rw [endOf_illegal (hword ▸ hw)]
    rfl

/-- What leaves the record, and does not set DONE, keeps the invariant out of reset. -/
theorem Inv.of_sameRecord {s t : State} (h : Inv s) (same : SameRecord s t)
    (hdone : t.done = true → s.done = true) (hr : t.inReset = false) : Inv t where
  busy_phase := by rw [same.busy, same.engine, h.busy_phase]
  not_busy_and_done := by
    rw [same.busy]
    exact fun ⟨hb, hd⟩ => h.not_busy_and_done ⟨hb, hdone hd⟩
  err_code := by rw [same.err, same.errcode, h.err_code]
  busy_clear := by
    rw [same.busy, same.errcode]
    exact h.busy_clear
  lastop_cmd := by rw [same.lastop, same.cmd, h.lastop_cmd]
  snap_cmd := by
    rw [same.engine, same.cmd]
    exact h.snap_cmd
  code_raised := by
    rw [same.errcode, same.cmd]
    exact h.code_raised
  illegal_reported := by
    rw [same.cmd, same.errcode]
    exact fun hd => h.illegal_reported (hdone hd)
  held_in_reset := by simp [hr]

/-- A register write that is no soft reset keeps the invariant. -/
theorem Inv.writeReg {s : State} (h : Inv s) (hr : s.inReset = false) (reg : Reg) (v : Word)
    (hsoft : ¬ (reg = .ctrl ∧ v.getLsbD 1 = true)) : Inv (s.writeReg reg v) := by
  rcases s.writeReg_cases reg v hsoft with
    ⟨-, -, ht⟩ | ⟨-, -, ht⟩ | ⟨-, ht⟩ | ⟨-, -, ht⟩ | ⟨u, ht, hu⟩
  · rw [ht]
    exact inv_accept hr v
  · rw [ht]
    exact h.of_sameRecord ⟨rfl, rfl, rfl, rfl, rfl, rfl⟩ id hr
  · rw [ht]
    exact h.of_sameRecord ⟨rfl, rfl, rfl, rfl, rfl, rfl⟩ (by simp) hr
  · rw [ht]
    exact h.of_sameRecord ⟨rfl, rfl, rfl, rfl, rfl, rfl⟩ id hr
  · rw [ht, hu]
    exact h.of_sameRecord ⟨rfl, rfl, rfl, rfl, rfl, rfl⟩ id hr

/-- A STATUS write with bit 1 set leaves DONE 0: while BUSY it is 0 already. -/
theorem Inv.flagsWritten_done {s : State} (h : Inv s) {v : Word} (hv : v.getLsbD 1 = true) :
    (s.flagsWritten v).done = false := by
  rw [State.flagsWritten_done, hv]
  cases hb : s.busy with
  | false => rfl
  | true => simpa using fun hd => h.not_busy_and_done ⟨hb, hd⟩

end Sys2Proof.Machine

/-! SUPPORT. What a register reads after a write to an operand register and after a completion. -/

namespace Sys2Proof.Machine

@[simp] theorem State.withEvents_readReg (s : State) (es : List Event) (r : Reg) :
    (s.withEvents es).readReg r = s.readReg r := rfl

@[simp] theorem State.answer_readReg (s : State) (a : Option Reply) (r : Reg) :
    (s.answer a).readReg r = s.readReg r := rfl

/-! ### A write to an operand register -/

/-- DIVCNT reads the low 4 bits of what is written (R27). -/
theorem zeroExtend_extractLsb'_four (v : Word) :
    BitVec.zeroExtend 32 (v.extractLsb' 0 4) = v &&& 0xF#32 := by
  apply BitVec.eq_of_toNat_eq
  have hlow : v.toNat &&& 15 = v.toNat % 16 := Nat.and_two_pow_sub_one_eq_mod v.toNat 4
  simp [hlow]
  omega

/-- An operand register reads what was written to it. -/
theorem State.readReg_writeReg_same (s : State) {r : Reg} (hr : isOperandReg r = true) (v : Word) :
    (s.writeReg r v).readReg r = if r = .divcnt then v &&& 0xF#32 else v := by
  cases r with
  | divcnt => exact zeroExtend_extractLsb'_four v
  | div i => simp [State.writeReg, State.readReg]
  | opa | opb | opm | opt => rfl
  | id | version | ctrl | status | cmd | result => contradiction

/-- A write to an operand register leaves every other register. -/
theorem State.readReg_writeReg_other (s : State) {r r' : Reg} (hr : isOperandReg r = true)
    (hne : r' ≠ r) (v : Word) : (s.writeReg r v).readReg r' = s.readReg r' := by
  cases r with
  | div i =>
    cases r' with
    | div j =>
      have hij : i.val ≠ j.val := fun h => hne (congrArg Reg.div (Fin.ext h.symm))
      exact Vector.getElem_set_ne i.isLt j.isLt hij
    | _ => rfl
  | opa | opb | opm | opt | divcnt =>
    cases r' <;> simp [State.writeReg, State.readReg, State.statusWord] at hne ⊢
  | id | version | ctrl | status | cmd | result => contradiction

/-- A write to an operand register leaves STATUS, CMD, RESULT and the engine. -/
theorem State.writeReg_operand_sameControl (s : State) {r : Reg} (hr : isOperandReg r = true)
    (v : Word) : SameControl s (s.writeReg r v) := by
  cases r with
  | opa | opb | opm | opt | divcnt | div i => exact ⟨⟨rfl, rfl, rfl, rfl, rfl, rfl⟩, rfl, rfl, rfl⟩
  | id | version | ctrl | status | cmd | result => contradiction

/-- A write to an operand register leaves IE, the pin and the events to come. -/
theorem State.writeReg_operand_port (s : State) {r : Reg} (hr : isOperandReg r = true) (v : Word) :
    (s.writeReg r v).ie = s.ie ∧ (s.writeReg r v).inReset = s.inReset ∧
      (s.writeReg r v).events = s.events := by
  cases r with
  | opa | opb | opm | opt | divcnt | div i => exact ⟨rfl, rfl, rfl⟩
  | id | version | ctrl | status | cmd | result => contradiction

/-! ### A completion -/

/-- A completion with the same outcome leaves a register the same in two blocks that agree on that
register and on what STATUS keeps, which are LASTOP and OVR. -/
theorem State.readReg_conclude_congr {s u : State} (o : CommandOutcome) {r : Reg}
    (hlastop : u.lastop = s.lastop) (hovr : u.ovr = s.ovr) (h : u.readReg r = s.readReg r) :
    (u.conclude o).readReg r = (s.conclude o).readReg r := by
  cases r with
  | status => simp [State.readReg, State.statusWord, hlastop, hovr]
  | div i =>
    cases o with
    | completeLoading v side =>
      simp only [State.readReg, State.conclude, State.complete, State.finish_div, State.load_div,
        Fin.getElem_fin, Vector.getElem_set] at h ⊢
      rw [h]
    | complete v | raise e info => exact h
  | id | version => rfl
  | ctrl | cmd | opa | opb => simpa [State.readReg] using h
  | result => cases o <;> rfl
  | opm | opt | divcnt =>
    cases o with
    | completeLoading v side => rfl
    | complete v | raise e info => exact h

end Sys2Proof.Machine

/-! PROOFS. The statements about the state and its registers, each from what a step does. -/

namespace Sys2Proof.Proofs

open Sys2Proof Sys2Proof.Machine

/-! ### The registers -/

/-- Settles O8: `regAt` inverts `Reg.offset`. -/
theorem registerOffsetsAreDistinctWords : Obligations.RegisterOffsetsAreDistinctWords := by
  intro r off
  refine ⟨⟨fun h => (offset_of_regAt h).symm, ?_⟩, r.offset_aligned, r.offset_lt⟩
  rintro rfl
  exact regAt_offset r

/-- Settles O13: the write is served, and writing one of these registers is the identity. -/
theorem readOnlyRegistersIgnoreWrites : Obligations.ReadOnlyRegistersIgnoreWrites := by
  intro s r v rest hr hreg he
  have hkeep : (s.withEvents rest).writeReg r v = s.withEvents rest := by
    rcases hreg with rfl | rfl | rfl <;> rfl
  rw [step_writeReg hr he, hkeep]
  rfl

/-- Settles O14: the write is served, and a write to an operand register has its own two rules. -/
theorem operandWriteStoresAndLeavesTheRest : Obligations.OperandWriteStoresAndLeavesTheRest := by
  intro s r v rest hr hop he
  have same := (s.withEvents rest).writeReg_operand_sameControl hop v
  obtain ⟨hie, hpin, hevents⟩ := (s.withEvents rest).writeReg_operand_port hop v
  refine ⟨_, step_writeReg hr he, ?_, fun r' hne => ?_, same.engine, ?_, hpin.trans hr, hevents,
    rfl⟩
  · exact State.readReg_writeReg_same _ hop v
  · exact State.readReg_writeReg_other _ hop hne v
  · simp [State.irq, same.done, hie]

/-! ### The end of a command -/

/-- Settles O31: a command ends in `conclude`, and only SAFEPRIME has an outcome with side writes,
which is no error. -/
theorem completionFrame : Obligations.CompletionFrame := by
  intro i s t h
  obtain ⟨q, -, rfl⟩ := exec_next h
  refine ⟨by simp [State.conclude_div_high], fun hi => ?_, ?_, by simp⟩
  · refine State.conclude_operands _ _ fun v side hload => ?_
    rcases hi with hi | herr
    · exact hi (eq_safeprime_of_loading hload)
    · simp [hload, CommandOutcome.code] at herr
  · rintro rfl
    rfl

/-- Settles O32: but for NOP, a command's rule does not read the state. -/
theorem outcomeDependsOnTheSnapshotOnly : Obligations.OutcomeDependsOnTheSnapshotOnly := by
  intro i q hi
  refine ⟨ruleOf State.reset i q, fun s hq => ?_⟩
  rw [exec_busy i hq, ruleOf_eq_of_ne_nop hi s State.reset]

/-- Settles O54: the write leaves the engine and RESULT, so the command has the same
outcome. -/
theorem operandWriteWhileBusyDoesNotReachTheCommand :
    Obligations.OperandWriteWhileBusyDoesNotReachTheCommand := by
  intro s r v _ hr hb hop
  have same := (s.withEvents [.engine]).writeReg_operand_sameControl hop v
  obtain ⟨-, hpin, hevents⟩ := (s.withEvents [.engine]).writeReg_operand_port hop v
  have hwrite := step_writeReg (s := s.withEvents [.write (Config.base + r.offset) 4 v, .engine])
    hr rfl
  obtain ⟨q, es, hq, ht⟩ := step_of_completes (s := s.withEvents [.engine])
    ⟨hr, hb, .inr ⟨[], rfl⟩⟩
  obtain ⟨q', es', hq', ht'⟩ := step_of_completes
    (s := ((s.withEvents [.engine]).writeReg r v).answer (some .done))
    ⟨hpin.trans hr, by simpa [same.engine] using hb, .inr ⟨[], hevents⟩⟩
  obtain rfl : q = q' := Engine.busy.inj (hq.symm.trans (same.engine.symm.trans hq'))
  have hend : endOf (((s.withEvents [.engine]).writeReg r v).answer (some .done)) q =
      endOf (s.withEvents [.engine]) q := endOf_congr same.result q
  rw [hend] at ht'
  refine ⟨_, _, runSteps_succ ht 0, (runSteps_succ hwrite 1).trans (runSteps_succ ht' 0), by simp,
    by simp, by simp, by simp, by simp, fun r' hne => ?_⟩
  exact State.readReg_conclude_congr _ same.lastop same.ovr
    (State.readReg_writeReg_other _ hop hne v)

/-! ### The invariant -/

/-- Settles O47: a step moves the port only, writes a register, completes the held command or
resets, and each of these keeps the invariant. -/
theorem everyStepKeepsTheInvariant : Obligations.EveryStepKeepsTheInvariant := by
  intro s t h hstep
  rcases step_next hstep with ⟨es, r, rfl⟩ | ⟨reg, v, es, ⟨hr, -⟩, hsoft, rfl⟩ |
    ⟨⟨hr, -⟩, q, es, hq, ⟨i, hi, rfl⟩ | ⟨why, hw, rfl⟩⟩ | ⟨-, es, r, b, rfl⟩
  · exact (h.withEvents es).answer r
  · exact ((h.withEvents es).writeReg hr reg v hsoft).answer (some .done)
  · rw [← endOf_legal hi]
    exact (h.withEvents es).conclude_endOf hr hq
  · have := (h.withEvents es).conclude_endOf hr hq
    rwa [endOf_illegal hw] at this
  · exact inv_reset es r b

/-! ### What moves STATUS, CMD, RESULT and the engine -/

/-- Settles O48: acceptance, completion and reset have their step, and the other kinds of
step keep the engine. -/
theorem phaseMovesOnlyByAcceptanceCompletionReset :
    Obligations.PhaseMovesOnlyByAcceptanceCompletionReset := by
  refine ⟨rfl, fun s h => ?_, fun s w h => ?_, fun s h => ?_, fun s h => ?_, fun s t h hne => ?_⟩
  · rw [h.busy_phase, Engine.isBusy_iff]
  · obtain ⟨es, ht⟩ := step_of_accepts h
    exact ⟨_, ht, rfl⟩
  · obtain ⟨q, es, -, ht⟩ := step_of_completes h
    exact ⟨_, ht, State.conclude_engine _ _⟩
  · obtain ⟨es, r, b, ht⟩ := step_of_resets h
    exact ⟨_, ht, rfl⟩
  · cases controlStep_of_step h with
    | accept w es hacc => exact .inl ⟨w, hacc⟩
    | complete q es hc hq => exact .inr (.inl hc)
    | reset es r b hrst => exact .inr (.inr hrst)
    | drop | statusWrite => exact absurd rfl hne
    | other same => exact absurd same.engine hne

/-- Settles O49: of the kinds of step, only a drop sets OVR, and only a STATUS write and a
reset clear it. -/
theorem ovrIsSetByADropAndClearedByWriteOrReset :
    Obligations.OvrIsSetByADropAndClearedByWriteOrReset := by
  intro s hinv
  refine ⟨fun w hw hb => ?_, fun t h h0 h1 => ?_, fun t h h1 h0 => ?_⟩
  · obtain ⟨es, ht⟩ := step_of_drop hw (hinv.busy_phase ▸ hb)
    exact ⟨_, ht, rfl, rfl, rfl, rfl⟩
  · cases controlStep_of_step h with
    | drop w es hw hb => exact ⟨hinv.busy_phase.trans hb, w, hw⟩
    | accept | statusWrite | complete => simp [h0] at h1
    | reset es r b hrst => cases h1
    | other same => simp [same.ovr, h0] at h1
  · cases controlStep_of_step h with
    | statusWrite v es hw => exact .inl ⟨v, hw, by simpa [h1] using h0⟩
    | reset es r b hrst => exact .inr hrst
    | drop w es hw hb => cases h0
    | accept | complete => simp [h1] at h0
    | other same => simp [same.ovr, h1] at h0

/-- Settles O50: of the kinds of step, only acceptance and reset write CMD and LASTOP. -/
theorem commandRecordFollowsAcceptance : Obligations.CommandRecordFollowsAcceptance := by
  refine ⟨fun s w h => ?_, fun s h => ?_, fun s t h hne => ?_, fun s t h hidle hbusy => ?_⟩
  · obtain ⟨es, ht⟩ := step_of_accepts h
    exact ⟨_, ht, rfl, by simp⟩
  · obtain ⟨w, hw, hb⟩ := h
    obtain ⟨es, ht⟩ := step_of_drop hw hb
    exact ⟨_, ht, rfl, rfl⟩
  · cases controlStep_of_step h with
    | accept w es hacc => exact .inl ⟨w, hacc, rfl⟩
    | reset es r b hrst => exact .inr ⟨hrst, rfl, rfl⟩
    | drop | statusWrite | complete => simp at hne
    | other same => simp [same.cmd, same.lastop] at hne
  · cases controlStep_of_step h with
    | accept w es hacc => exact ⟨w, hacc⟩
    | drop w es hw hb => simp [hidle] at hb
    | statusWrite v es hw => simp [hidle] at hbusy
    | complete q es hc hq => simp at hbusy
    | reset es r b hrst => cases hbusy
    | other same => simp [same.engine, hidle] at hbusy

/-- Settles O51: a STATUS write finds DONE 0 while BUSY, and the other kinds of step
keep the three flags. -/
theorem doneAndErrorChangeOnlyAsStated : Obligations.DoneAndErrorChangeOnlyAsStated := by
  refine ⟨fun s w h => ?_, fun s h => ?_, fun s v hinv hw hv => ?_, fun s t h hne => ?_,
    fun s t h hne => ?_⟩
  · obtain ⟨es, ht⟩ := step_of_accepts h
    exact ⟨_, ht, rfl, rfl, rfl⟩
  · obtain ⟨q, es, -, ht⟩ := step_of_completes h
    exact ⟨_, ht, by simp, by simp⟩
  · obtain ⟨es, ht⟩ := step_servesWrite (reg := .status) hw
    exact ⟨_, ht, (hinv.withEvents es).flagsWritten_done hv⟩
  · cases controlStep_of_step h with
    | accept w es hacc => exact .inl ⟨w, hacc⟩
    | complete q es hc hq => exact .inr (.inl hc)
    | statusWrite v es hw =>
      have ⟨_, hv, _⟩ : s.done = true ∧ v[1] = true ∧ s.busy = false := by simpa using hne
      exact .inr (.inr (.inl ⟨v, hw, hv⟩))
    | reset es r b hrst => exact .inr (.inr (.inr hrst))
    | drop w es hw hb => simp at hne
    | other same => exact absurd same.done hne
  · cases controlStep_of_step h with
    | accept w es hacc => exact .inl ⟨w, hacc⟩
    | complete q es hc hq => exact .inr (.inl hc)
    | reset es r b hrst => exact .inr (.inr hrst)
    | drop | statusWrite => simp at hne
    | other same => simp [same.err, same.errcode] at hne

/-- Settles O52: of the kinds of step, only completion and reset write RESULT. -/
theorem resultIsWrittenByCompletionOnly : Obligations.ResultIsWrittenByCompletionOnly := by
  intro s t h hne
  cases controlStep_of_step h with
  | complete q es hc hq => exact .inl hc
  | reset es r b hrst => exact .inr ⟨hrst, rfl⟩
  | accept | drop | statusWrite => exact absurd rfl hne
  | other same => exact absurd same.result hne

end Sys2Proof.Proofs

/-! SUPPORT. The bus lanes of a word, and the bits of a word that a register does not have. -/

namespace Sys2Proof

/-- Lane `k` in its place carries the bits of the word that stand there, and no other (R54). -/
theorem place_lane_getLsbD (w : Word) (k i : Nat) :
    (place (8 * k) (lane w k)).getLsbD i = (decide (i / 8 = k) && w.getLsbD i) := by
  rw [place_getLsbD, lane, BitVec.getLsbD_extractLsb']
  by_cases hi : i / 8 = k
  · by_cases h32 : i < 32
    · simp [hi, h32, show 8 * k ≤ i by omega, show i - 8 * k < 8 by omega]
    · simp [h32, BitVec.getLsbD_of_ge w i (by omega)]
  · by_cases hle : 8 * k ≤ i
    · simp [hi, show ¬ i - 8 * k < 8 by omega]
    · simp [hi, hle]

/-- The four lanes of a word together are the word (R54). -/
theorem ofLanes_lanes (w : Word) : ofLanes (lane w 0) (lane w 1) (lane w 2) (lane w 3) = w := by
  apply BitVec.eq_of_getLsbD_eq
  intro i hi
  have bit (k : Nat) := place_lane_getLsbD w k i
  have hk : i / 8 = 0 ∨ i / 8 = 1 ∨ i / 8 = 2 ∨ i / 8 = 3 := by omega
  simp only [ofLanes, BitVec.getLsbD_or]
  rw [bit 3, bit 2, bit 1, bit 0]
  rcases hk with hk | hk | hk | hk <;> simp [hk]

/-- The value that lane `k` carries (R54). -/
theorem lane_toNat (w : Word) (k : Nat) : (lane w k).toNat = w.toNat / 2 ^ (8 * k) % 256 := by
  rw [lane, BitVec.extractLsb'_toNat, Nat.shiftRight_eq_div_pow]

/-- A field of `n` bits placed at `lo` is below `2 ^ m` where `lo + n ≤ m`. -/
theorem place_toNat_lt {n : Nat} (lo : Nat) (v : BitVec n) {m : Nat} (h : lo + n ≤ m) :
    (place lo v).toNat < 2 ^ m := by
  apply Nat.lt_pow_two_of_testBit
  intro i hi
  rw [BitVec.testBit_toNat, place_getLsbD, BitVec.getLsbD_of_ge v (i - lo) (by omega)]
  simp

/-- Words that agree below bit `k` have the same bits there. -/
theorem getLsbD_eq_of_mod {v w : Word} {k i : Nat} (h : v.toNat % 2 ^ k = w.toNat % 2 ^ k)
    (hi : i < k) : v.getLsbD i = w.getLsbD i := by
  have := congrArg (Nat.testBit · i) h
  simpa [Nat.testBit_mod_two_pow, hi, BitVec.testBit_toNat] using this

end Sys2Proof

/-! SUPPORT. The reserved part of the window, accesses that are refused or not to the block, and the
step of a block that is out of reset. -/

namespace Sys2Proof.Machine

/-! ### Reserved offsets and bits -/

/-- The reserved offsets of the window (R51). -/
def reservedOffset (off : Nat) : Prop :=
  off = 0x1C ∨ (0x30 ≤ off ∧ off ≤ 0x3C) ∨ (0x60 ≤ off ∧ off ≤ 0xFC)

/-- No register stands in the reserved part of the window (R51). -/
theorem Reg.offset_not_reserved (r : Reg) : ¬ reservedOffset r.offset := by
  cases r with
  | div i => simp only [reservedOffset, Reg.offset]; omega
  | _ => simp [reservedOffset, Reg.offset]

theorem regAt_reserved {off : Nat} (h : reservedOffset off) : regAt off = none := by
  cases hreg : regAt off with
  | none => rfl
  | some r => exact absurd (offset_of_regAt hreg ▸ h) r.offset_not_reserved

theorem State.readOffset_reserved (s : State) {off : Nat} (h : reservedOffset off) :
    s.readOffset off = 0#32 := by
  simp [State.readOffset, regAt_reserved h]

theorem State.writeOffset_reserved (s : State) {off : Nat} (h : reservedOffset off) (v : Word) :
    s.writeOffset off v = s := by
  simp [State.writeOffset, regAt_reserved h]

/-- STATUS reads 0 in bits 31:16 (R32). -/
theorem State.statusWord_toNat_lt (s : State) : s.statusWord.toNat < 2 ^ 16 := by
  simp only [State.statusWord, BitVec.toNat_or]
  repeat' apply Nat.or_lt_two_pow
  all_goals exact place_toNat_lt _ _ (by decide)

/-! ### Accesses -/

/-- A step with an event left is that event. -/
theorem step_cons {s : State} {e : Event} {rest : List Event} (he : s.events = e :: rest) :
    step s = happen Config.base e (s.withEvents rest) := by
  simp only [step, stepAt, he]

/-- An address outside the window selects no offset (R52). -/
theorem windowOffset_eq_none {base addr : Nat} (h : addr < base ∨ base + 256 ≤ addr) :
    windowOffset base addr = none := by
  rw [windowOffset, if_neg]
  simp only [Config.windowBytes]
  omega

/-- An access that is not an aligned 32-bit one is not accepted (R55). -/
theorem accessAllowed_eq_false {off size : Nat} (h : size ≠ 4 ∨ off % 4 ≠ 0) :
    accessAllowed off size = false := by
  simpa [accessAllowed, imp_iff_not_or] using h

/-- The step of a read that selects the block, whatever its size and alignment. -/
theorem step_serveRead {s : State} {off size : Nat} {rest : List Event} (hr : s.inReset = false)
    (ho : off < 256) (he : s.events = .read (Config.base + off) size :: rest) :
    step s = .next ((s.withEvents rest).serveRead off size) := by
  simp [step_cons he, happen, windowOffset_add _ ho, transact, hr]

/-- The step of a write that selects the block, whatever its size and alignment. -/
theorem step_serveWrite {s : State} {off size : Nat} {v : Word} {rest : List Event}
    (hr : s.inReset = false) (ho : off < 256)
    (he : s.events = .write (Config.base + off) size v :: rest) :
    step s = .next ((s.withEvents rest).serveWrite off size v) := by
  simp [step_cons he, happen, windowOffset_add _ ho, transact, hr]

/-! ### Progress out of reset -/

/-- A register write leaves the events to come. -/
@[simp] theorem State.writeReg_events (s : State) (r : Reg) (v : Word) :
    (s.writeReg r v).events = s.events := by
  cases r with
  | ctrl => simp only [State.writeReg, State.writeCtrl]; split <;> rfl
  | cmd => simp only [State.writeReg, State.writeCmd]; split <;> rfl
  | _ => rfl

@[simp] theorem State.serveRead_events (s : State) (off size : Nat) :
    (s.serveRead off size).events = s.events := by
  unfold State.serveRead
  split <;> rfl

@[simp] theorem State.serveWrite_events (s : State) (off size : Nat) (v : Word) :
    (s.serveWrite off size v).events = s.events := by
  unfold State.serveWrite State.writeOffset
  split
  · split <;> simp
  · rfl

/-- While the engine holds a command, its completion is a next state. -/
theorem completion_busy {s : State} {q : Snapshot} (hq : s.engine = .busy q) :
    completion s = .next (s.conclude (endOf s q)) := by
  cases hd : decodeFields q.cmd with
  | legal i => simp only [completion, hq, hd, exec_busy i hq, endOf_legal hd]
  | illegal why => simp only [completion, hq, hd, endOf_illegal hd, State.conclude]

/-- Out of reset the engine's turn leaves a next state, and the events to come. -/
theorem engineTurn_released {s : State} (hr : s.inReset = false) :
    ∃ t, engineTurn s = .next t ∧ t.events = s.events := by
  cases hq : s.engine with
  | idle => exact ⟨s, by simp [engineTurn, hr, completion, hq], rfl⟩
  | busy q => exact ⟨_, by simp [engineTurn, hr, completion_busy hq]; rfl, by simp⟩

/-- Out of reset every event leaves a next state, and the events to come. -/
theorem happen_released (base : Nat) (e : Event) {s : State} (hr : s.inReset = false) :
    ∃ t, happen base e s = .next t ∧ t.events = s.events := by
  cases e with
  | engine => exact engineTurn_released hr
  | resetLow => exact ⟨_, rfl, rfl⟩
  | resetHigh => exact ⟨_, rfl, by simp [State.pinHigh, hr]⟩
  | read addr size =>
    cases ho : windowOffset base addr with
    | none => exact ⟨s.answer none, by simp [happen, ho], rfl⟩
    | some off => exact ⟨s.serveRead off size, by simp [happen, ho, transact, hr], by simp⟩
  | write addr size v =>
    cases ho : windowOffset base addr with
    | none => exact ⟨s.answer none, by simp [happen, ho], rfl⟩
    | some off => exact ⟨s.serveWrite off size v, by simp [happen, ho, transact, hr], by simp⟩

/-- No command is held while `rst_n` is 0 (R230). -/
theorem Inv.inReset_of_busy {s : State} (h : Inv s) (hb : s.busy = true) : s.inReset = false := by
  cases hr : s.inReset with
  | false => rfl
  | true =>
    rw [h.held_in_reset hr] at hb
    cases hb

end Sys2Proof.Machine

/-! PROOFS. The statements about the register window and its accesses. -/

namespace Sys2Proof.Proofs

open Sys2Proof Sys2Proof.Machine

/-! ### Lanes and accesses -/

/-- Settles O6: a lane's value is a quotient of the word's, and the placed lanes have its bits. -/
theorem busLanesAreLittleEndian : Obligations.BusLanesAreLittleEndian :=
  fun w => ⟨fun k _ => lane_toNat w k, ofLanes_lanes w⟩

/-- Settles O12: no register stands at a reserved offset, and reads and writes of CTRL, STATUS and
DIVCNT meet the low bits only. -/
theorem reservedOffsetsAndBitsReadZeroIgnoreWrites :
    Obligations.ReservedOffsetsAndBitsReadZeroIgnoreWrites := by
  refine ⟨fun s off v rest hr ha hres => ?_, fun s => ⟨?_, s.statusWord_toNat_lt, ?_⟩,
    fun s v w => ⟨fun h => ?_, fun h => ?_, fun h => ?_⟩⟩
  · have ho : off < 256 := by omega
    refine ⟨fun he => ?_, fun he => ?_⟩
    · rw [step_read hr ho ha he, State.readOffset_reserved _ hres]
      rfl
    · rw [step_write hr ho ha he, State.writeOffset_reserved _ hres]
      rfl
  · cases hie : s.ie <;> simp [State.readReg, hie]
  · simpa [State.readReg] using (Nat.mod_le _ _).trans_lt s.divcnt.isLt
  · have bit {i : Nat} (hi : i < 2) : v.getLsbD i = w.getLsbD i := getLsbD_eq_of_mod h hi
    simp only [State.writeReg, State.writeCtrl, bit (i := 0) (by decide), bit (i := 1) (by decide)]
  · have bit {i : Nat} (hi : i < 4) : v.getLsbD i = w.getLsbD i := getLsbD_eq_of_mod h hi
    simp only [State.writeReg, State.flagsWritten, bit (i := 1) (by decide),
      bit (i := 3) (by decide)]
  · have low : v.extractLsb' 0 4 = w.extractLsb' 0 4 := BitVec.eq_of_toNat_eq (by simpa using h)
    simp only [State.writeReg, low]

/-- Settles O11: the access selects the block and is not accepted, so it is answered only. -/
theorem malformedAccessIsABusErrorOnly : Obligations.MalformedAccessIsABusErrorOnly := by
  intro s off size v rest hr ho hbad he
  have hno := accessAllowed_eq_false hbad
  rcases he with he | he
  · rw [step_serveRead hr ho he, State.serveRead, hno]
    rfl
  · rw [step_serveWrite hr ho he, State.serveWrite, hno]
    rfl

/-- Settles O18: the address selects no offset. -/
theorem unselectedAddressLeavesTheBlock : Obligations.UnselectedAddressLeavesTheBlock := by
  intro s addr size v rest hout he
  have hnone := windowOffset_eq_none hout
  rcases he with he | he
  · rw [step_cons he, happen, hnone]
    rfl
  · rw [step_cons he, happen, hnone]
    rfl

/-! ### The end of a held command -/

/-- Settles O56, by induction on the events to come: each step consumes one of them, and with none
left the held command completes. -/
theorem busyCommandEndsWithinItsEvents : Obligations.BusyCommandEndsWithinItsEvents := by
  intro s
  induction hes : s.events generalizing s with
  | nil =>
    intro hinv hb
    have hc : completes s := ⟨hinv.inReset_of_busy hb, hinv.busy_phase ▸ hb, .inl hes⟩
    obtain ⟨q, es, -, ht⟩ := step_of_completes hc
    exact ⟨1, _, le_rfl, by simp, runSteps_succ ht 0, by simp, by simp⟩
  | cons e rest ih =>
    intro hinv hb
    obtain ⟨t, ht, hrest⟩ := happen_released Config.base e (s := s.withEvents rest)
      (hinv.inReset_of_busy hb)
    have hstep : step s = .next t := (step_cons hes).trans ht
    have hinv' : Inv t := everyStepKeepsTheInvariant s t hinv hstep
    cases hb' : t.busy with
    | false =>
      have hidle : t.engine = .idle := by
        cases hq : t.engine with
        | idle => rfl
        | busy q => simp [hinv'.busy_phase, hq] at hb'
      exact ⟨1, t, le_rfl, by simp, runSteps_succ hstep 0, hb', hidle⟩
    | true =>
      obtain ⟨k, u, -, hk, hrun, hu⟩ := ih t hrest hinv' hb'
      exact ⟨k + 1, u, by omega, by simpa using hk, (runSteps_succ hstep k).trans hrun, hu⟩

end Sys2Proof.Proofs

/-! SUPPORT. A command word and its fields, each taken from the other, and the words that the decoder
accepts. -/

namespace Sys2Proof

/-! ### The fields of a word -/

theorem CmdFields.ofWord_op_toNat (w : Word) : (CmdFields.ofWord w).op.toNat = w.toNat % 256 := by
  simp

theorem CmdFields.ofWord_s_iff (w : Word) :
    (CmdFields.ofWord w).s = true ↔ w.toNat / 256 % 2 = 1 := by
  rw [CmdFields.ofWord_s, ← BitVec.testBit_toNat, Nat.testBit_eq_decide_div_mod_eq,
    decide_eq_true_iff]

theorem CmdFields.ofWord_rsv_toNat (w : Word) :
    (CmdFields.ofWord w).rsv.toNat = w.toNat / 512 := by
  have := w.isLt
  rw [CmdFields.ofWord_rsv, BitVec.extractLsb'_toNat, Nat.shiftRight_eq_div_pow]
  omega

/-- Which field each bit of a word put together from fields belongs to (R70). -/
theorem CmdFields.toWord_getLsbD (c : CmdFields) (k : Nat) :
    c.toWord.getLsbD k =
      if k < 8 then c.op.getLsbD k else if k = 8 then c.s else c.rsv.getLsbD (k - 9) := by
  simp only [CmdFields.toWord, BitVec.getLsbD_or, place_getLsbD]
  rcases lt_trichotomy k 8 with hk | rfl | hk
  · simp [hk, show ¬ 8 ≤ k by omega, show ¬ 9 ≤ k by omega, show k < 32 by omega]
  · simp
  · have hop : c.op.getLsbD k = false := BitVec.getLsbD_of_ge _ _ (by omega)
    by_cases h32 : k < 32
    · simp [hop, h32, hk.ne', show ¬ k < 8 by omega, show 9 ≤ k by omega, show k - 8 ≠ 0 by omega]
    · simp [h32, hk.ne', show ¬ k < 8 by omega, BitVec.getLsbD_of_ge c.rsv (k - 9) (by omega)]

/-- A word is put together again from its own fields. -/
@[simp] theorem CmdFields.toWord_ofWord (w : Word) : (CmdFields.ofWord w).toWord = w := by
  apply BitVec.eq_of_getLsbD_eq
  intro k hk
  rw [CmdFields.toWord_getLsbD]
  split_ifs with h8 h
  · simp [h8]
  · rw [h, CmdFields.ofWord_s]
  · simp [show k - 9 < 23 by omega, show 9 + (k - 9) = k by omega]

/-- The fields of a word put together from fields are those fields. -/
@[simp] theorem CmdFields.ofWord_toWord (c : CmdFields) : CmdFields.ofWord c.toWord = c := by
  have hop : c.toWord.extractLsb' 0 8 = c.op := by
    apply BitVec.eq_of_getLsbD_eq
    intro k hk
    simp [CmdFields.toWord_getLsbD, hk]
  have hs : c.toWord.getLsbD 8 = c.s := CmdFields.toWord_getLsbD c 8
  have hrsv : c.toWord.extractLsb' 9 23 = c.rsv := by
    apply BitVec.eq_of_getLsbD_eq
    intro k hk
    simp [CmdFields.toWord_getLsbD, hk, show ¬ 9 + k < 8 by omega, show 9 + k ≠ 8 by omega]
  simp only [CmdFields.ofWord, hop, hs, hrsv]

/-! ### The words that decode to a command -/

@[simp] theorem decode_toWord (c : CmdFields) : decode c.toWord = decodeFields c := by
  rw [decode, CmdFields.ofWord_toWord]

@[simp] theorem decode_encode (i : Instr) : decode (encode i) = .legal i := by
  rw [encode, decode_toWord, decodeFields_fields]

/-- A command has one word only (R71). -/
theorem decode_eq_legal_iff (w : Word) (i : Instr) : decode w = .legal i ↔ w = encode i := by
  refine ⟨fun h => ?_, fun h => h ▸ decode_encode i⟩
  rw [encode, ← eq_fields_of_decodeFields h, CmdFields.toWord_ofWord]

/-- The commands in the order of the word table (R71). -/
def commands : List Instr :=
  [.nop, .mulmod, .powmod, .isprime, .isprimeS, .mulord, .isprimroot, .safeprime]

theorem mem_commands (i : Instr) : i ∈ commands := by cases i <;> decide

/-- A row of the word table is a command with its encoded word (R71). -/
theorem mem_map_encode_iff (w : Word) (i : Instr) :
    (w, i) ∈ commands.map (fun j => (encode j, j)) ↔ w = encode i := by
  simp [mem_commands, eq_comm]

/-- The three conditions of R77 on the fields of a word, as numbers. -/
theorem CmdFields.wellFormed_eq_false_iff (c : CmdFields) :
    c.wellFormed = false ↔
      c.rsv.toNat ≠ 0 ∨ 7 ≤ c.op.toNat ∨ (c.s = true ∧ c.op.toNat ≠ 3) := by
  have hrsv : c.rsv = 0#23 ↔ c.rsv.toNat = 0 := BitVec.toNat_eq
  have hop : c.op = 0x03#8 ↔ c.op.toNat = 3 := BitVec.toNat_eq
  simp only [CmdFields.wellFormed, CmdFields.reservedClear, CmdFields.modifierAllowed,
    CmdFields.opcodeAssigned, Bool.and_eq_false_iff, Bool.or_eq_false_iff, beq_eq_false_iff_ne,
    Bool.not_eq_false', decide_eq_false_iff_not, ne_eq, hrsv, hop, not_le, Nat.lt_iff_add_one_le]
  tauto

/-- Every command's fields pass the check. -/
theorem Instr.fields_wellFormed (i : Instr) : i.fields.wellFormed = true := by cases i <;> rfl

/-- The decoder refuses exactly the fields that are not well formed (R74, R77). -/
theorem decodeFields_illegal_iff (c : CmdFields) :
    (∃ why, decodeFields c = .illegal why) ↔ c.wellFormed = false := by
  constructor
  · rintro ⟨why, h⟩
    rw [CmdFields.wellFormed_eq_false_iff]
    unfold decodeFields at h
    split_ifs at h with hrsv hop hs hs h0 h1 h2 h4 h5 h6
    · exact .inl (by bv_omega)
    · exact .inr (.inr ⟨hs, by bv_omega⟩)
    · exact .inr (.inl (by bv_omega))
  · intro hwf
    cases hd : decodeFields c with
    | illegal why => exact ⟨why, rfl⟩
    | legal i =>
      rw [eq_fields_of_decodeFields hd, Instr.fields_wellFormed] at hwf
      contradiction

/-- The decoder accepts exactly the well-formed fields. -/
theorem decodeFields_legal_iff (c : CmdFields) :
    (∃ i, decodeFields c = .legal i) ↔ c.wellFormed = true := by
  rw [← Bool.not_eq_false, ← decodeFields_illegal_iff]
  cases decodeFields c <;> simp

end Sys2Proof

/-! SUPPORT. What the host's transactions and one call of a command do to a block out of reset. -/

namespace Sys2Proof.Machine

@[simp] theorem State.answer_answer (s : State) (a b : Option Reply) :
    (s.answer a).answer b = s.answer b := rfl

/-- ERRCODE is bits 7:4 of STATUS (R32). -/
theorem State.statusWord_errcode (s : State) : s.statusWord.extractLsb' 4 4 = s.errcode := by
  apply BitVec.eq_of_getLsbD_eq
  intro k hk
  have flag (b : Bool) {lo : Nat} (hlo : lo < 4) :
      (place lo (BitVec.ofBool b)).getLsbD (4 + k) = false := by
    rw [place_getLsbD, BitVec.getLsbD_of_ge _ _ (by omega)]
    simp
  have hlastop : (place 8 s.lastop).getLsbD (4 + k) = false := by
    rw [place_getLsbD]
    simp [show ¬ 8 ≤ 4 + k by omega]
  have hcode : (place 4 s.errcode).getLsbD (4 + k) = s.errcode.getLsbD k := by
    rw [place_getLsbD]
    simp [show 4 + k < 32 by omega]
  simp only [BitVec.getLsbD_extractLsb', hk, decide_true, Bool.true_and, State.statusWord,
    BitVec.getLsbD_or, flag _ (lo := 0) (by decide), flag _ (lo := 1) (by decide),
    flag _ (lo := 2) (by decide), flag _ (lo := 3) (by decide), hlastop, hcode, Bool.or_false,
    Bool.false_or]

/-- Out of reset the engine's turn ends the command it holds (R45). -/
theorem engineTurn_busy {s : State} {q : Snapshot} (hr : s.inReset = false)
    (hq : s.engine = .busy q) : engineTurn s = .next (s.conclude (endOf s q)) := by
  simp [engineTurn, hr, completion_busy hq]

/-- Out of reset the engine's turn runs the command whose word it holds (R162). -/
theorem engineTurn_legal {s : State} {q : Snapshot} {i : Instr} (hr : s.inReset = false)
    (hq : s.engine = .busy q) (hi : decodeFields q.cmd = .legal i) : engineTurn s = exec i s := by
  simp [engineTurn, hr, completion, hq, hi]

namespace Driver

@[simp] theorem andThen_next {α β : Type} (a : α) (k : α → Host.Outcome β Fault Refusal) :
    andThen (.next a) k = k a := rfl

@[simp] theorem answered_answer (s : State) (v : Word) :
    answered (s.answer (some (.data v))) = v := rfl

/-- `WR <reg>, <v>` out of reset (R79). -/
theorem now_writeTo (base : Nat) {s : State} (hr : s.inReset = false) (r : Reg) (v : Word) :
    now base (writeTo base r v) s = .next ((s.writeReg r v).answer (some .done)) := by
  simp [now, writeTo, happen, transact, hr, State.serveWrite]

/-- `RD <reg>` out of reset (R79). -/
theorem now_readFrom (base : Nat) {s : State} (hr : s.inReset = false) (r : Reg) :
    now base (readFrom base r) s = .next (s.answer (some (.data (s.readReg r)))) := by
  simp [now, readFrom, happen, transact, hr, State.serveRead]

/-- The block that has just accepted the word of `i` (R80, R160). -/
def accepted (i : Instr) (s : State) : State := (s.accept (encode i)).answer (some .done)

/-- A command mnemonic on an IDLE block out of reset is accepted. -/
theorem now_command (base : Nat) {s : State} (hr : s.inReset = false) (hidle : s.engine = .idle)
    (i : Instr) : now base (writeTo base .cmd (encode i)) s = .next (accepted i s) := by
  rw [now_writeTo base hr, State.writeReg, State.writeCmd, hidle, accepted]

/-- The block on which a call of `i` has completed, before its first poll (log entry 10). -/
def afterCall (i : Instr) (s : State) : State :=
  (accepted i s).conclude (ruleOf s i (s.capture (encode i)))

@[simp] theorem afterCall_engine (i : Instr) (s : State) : (afterCall i s).engine = .idle :=
  State.conclude_engine _ _

@[simp] theorem afterCall_inReset (i : Instr) (s : State) : (afterCall i s).inReset = s.inReset :=
  State.conclude_inReset _ _

/-- The accepted command computes on the registers of `s`, RESULT included (R48, R163). -/
theorem exec_accepted (i : Instr) (s : State) : exec i (accepted i s) = .next (afterCall i s) := by
  rw [exec_busy i (q := s.capture (encode i)) rfl, afterCall]
  cases i <;> rfl

/-- The engine's turn completes the command just accepted. -/
theorem now_engine_accepted (base : Nat) (i : Instr) {s : State} (hr : s.inReset = false) :
    now base .engine (accepted i s) = .next (afterCall i s) :=
  (engineTurn_legal (s := accepted i s) hr rfl (decode_encode i)).trans (exec_accepted i s)

/-- One call on an IDLE block out of reset: the completion, then the answers of the two reads (R81). -/
theorem call_eq (base : Nat) (i : Instr) {s : State} (hr : s.inReset = false)
    (hidle : s.engine = .idle) :
    call base i s = .next
      ⟨(afterCall i s).answer (some (.data (afterCall i s).result)), (afterCall i s).result,
        (afterCall i s).errcode⟩ := by
  simp [call, now_command base hr hidle, now_engine_accepted base i hr, now_readFrom, hr,
    State.readReg, State.statusWord_errcode]

end Driver

end Sys2Proof.Machine

/-! PROOFS. The statements about the encoding of a command word, and about one call of a command. -/

namespace Sys2Proof.Proofs

open Sys2Proof Sys2Proof.Machine

/-! ### The command word -/

/-- Settles O4: a field is a quotient of the word, and each bit of the word stands in one field. -/
theorem commandFieldsPartitionTheWord : Obligations.CommandFieldsPartitionTheWord :=
  ⟨fun w => ⟨CmdFields.ofWord_op_toNat w, CmdFields.ofWord_s_iff w, CmdFields.ofWord_rsv_toNat w⟩,
    CmdFields.toWord_ofWord, CmdFields.ofWord_toWord⟩

/-- Settles O3: the word gives the decoder the command's own fields. -/
theorem decodeOfEncodeIsTheCommand : Obligations.DecodeOfEncodeIsTheCommand := decode_encode

/-- Settles O1: the rows are the commands with their encoded words, and a command has no other word. -/
theorem legalWordsAreTheEightOfTheTable : Obligations.LegalWordsAreTheEightOfTheTable :=
  fun w i => (decode_eq_legal_iff w i).trans (mem_map_encode_iff w i).symm

/-- Settles O5: the decoder refuses exactly what the check refuses. -/
theorem wellFormedFieldsAreTheDecodable : Obligations.WellFormedFieldsAreTheDecodable := by
  intro c
  simp only [decode_toWord, decodeFields_legal_iff]

/-- Settles O2: the check's three conditions are R77's, acceptance does not look at the word, and the
completion of an illegal word raises ILLEGAL_CMD. -/
theorem illegalWordIsAcceptedAndReported : Obligations.IllegalWordIsAcceptedAndReported := by
  refine ⟨fun w => ?_, fun s w h => ?_, fun s q why hr hq hw rest he => ?_,
    fun w => decode_eq_legal_iff w .nop⟩
  · rw [decode, decodeFields_illegal_iff, CmdFields.wellFormed_eq_false_iff,
      CmdFields.ofWord_op_toNat, CmdFields.ofWord_s_iff, CmdFields.ofWord_rsv_toNat]
  · obtain ⟨es, ht⟩ := step_of_accepts h
    exact ⟨_, ht, rfl, CmdFields.ofWord_op_toNat w, rfl⟩
  · rw [step_cons he, happen, engineTurn_busy (s := s.withEvents rest) hr hq, endOf_illegal hw]
    rfl

/-! ### One call -/

/-- Settles O58: the two reads of a call change nothing but the answer. -/
theorem callReturnsResultAndErrcode : Obligations.CallReturnsResultAndErrcode := by
  intro base i s hr hidle
  exact ⟨_, _, Driver.exec_accepted i s, Driver.call_eq base i hr hidle, rfl, rfl, fun reg => rfl,
    Driver.afterCall_engine i s⟩

end Sys2Proof.Proofs

/-! SUPPORT. What MULMOD and POWMOD compute from a snapshot, and what the reference datapath computes. -/

namespace Sys2Proof.Machine

/-! ### A completion with an error and without -/

/-- A held command that completes with `v` changes RESULT, the flags and the phase only (R45). -/
theorem exec_of_complete (i : Instr) {s : State} {q : Snapshot} (hq : s.engine = .busy q)
    {v : Word} (h : ruleOf s i q = .complete v) :
    exec i s = .next { s with
      result := v, err := false, errcode := 0#4, busy := false, done := true
      engine := .idle } := by
  rw [exec_busy i hq, h]
  rfl

/-- A held command that raises INVALID_MODULUS leaves RESULT 0 (R201, R203). -/
theorem exec_of_invalidModulus (i : Instr) {s : State} {q : Snapshot} (hq : s.engine = .busy q)
    (h : ruleOf s i q = .raise .invalidModulus 0#32) :
    exec i s = .next { s with
      result := 0#32, err := true, errcode := 1#4, busy := false, done := true
      engine := .idle } := by
  rw [exec_busy i hq, h]
  rfl

/-! ### The rules of MULMOD and POWMOD -/

/-- Narrowing loses nothing of a value in the range of `u32` (R9). -/
theorem u32_toNat {n : Nat} (h : n < 2 ^ 32) : (u32 n).toNat = n := by
  rw [u32, BitVec.toNat_ofNat, Nat.mod_eq_of_lt h]

theorem word_eq_zero_iff (w : Word) : w = 0#32 ↔ w.toNat = 0 := BitVec.toNat_eq

theorem toNat_pos_of_ne_zero {m : Word} (hm : m ≠ 0#32) : 0 < m.toNat :=
  Nat.pos_of_ne_zero (mt (word_eq_zero_iff m).2 hm)

/-- A value reduced by a 32-bit modulus is in the range of `u32` (R111). -/
theorem mod_toNat_lt {m : Word} (hm : m ≠ 0#32) (n : Nat) : n % m.toNat < 2 ^ 32 :=
  (Nat.mod_lt n (toNat_pos_of_ne_zero hm)).trans m.isLt

theorem mulmodRule_modulus_zero {q : Snapshot} (hm : q.m = 0#32) :
    mulmodRule q = .raise .invalidModulus 0#32 := if_pos hm

theorem powmodRule_modulus_zero {q : Snapshot} (hm : q.m = 0#32) :
    powmodRule q = .raise .invalidModulus 0#32 := if_pos hm

/-- MULMOD completes with the reduced product (R100). -/
theorem mulmodRule_complete {q : Snapshot} (hm : q.m ≠ 0#32) :
    ∃ v, mulmodRule q = .complete v ∧ v.toNat = q.a.toNat * q.b.toNat % q.m.toNat :=
  ⟨_, if_neg hm, u32_toNat (mod_toNat_lt hm _)⟩

/-- POWMOD completes with the reduced power (R106). -/
theorem powmodRule_complete {q : Snapshot} (hm : q.m ≠ 0#32) :
    ∃ v, powmodRule q = .complete v ∧ v.toNat = q.a.toNat ^ q.b.toNat % q.m.toNat := by
  have hpow := Numeric.powmod_eq (b := q.a.toNat) (toNat_pos_of_ne_zero hm) q.b.isLt
  refine ⟨_, if_neg hm, ?_⟩
  rw [hpow, u32_toNat (mod_toNat_lt hm _)]

/-- A held POWMOD whose reduced power is `v` ends without error and with `v` in RESULT. -/
theorem exec_powmod_result {s : State} {q : Snapshot} (hq : s.engine = .busy q)
    (hm : q.m ≠ 0#32) {v : Word} (hv : q.a.toNat ^ q.b.toNat % q.m.toNat = v.toNat) :
    ∃ t, exec .powmod s = .next t ∧ t.result = v ∧ t.err = false := by
  obtain ⟨r, hrule, hr⟩ := powmodRule_complete hm
  obtain rfl : r = v := BitVec.eq_of_toNat_eq (hr.trans hv)
  exact ⟨_, exec_of_complete .powmod hq hrule, rfl, rfl⟩

namespace Datapath

/-! ### The loop operand -/

theorem shiftRight_one_toNat (w : Word) : (w >>> 1).toNat = w.toNat / 2 := by
  rw [BitVec.toNat_ushiftRight, Nat.shiftRight_one]

theorem getLsbD_zero_iff (w : Word) : w.getLsbD 0 = true ↔ w.toNat % 2 = 1 := by
  rw [← BitVec.testBit_toNat, Nat.testBit_zero, decide_eq_true_iff]

/-! ### MULMOD -/

/-- The 33-bit sum keeps the carry, so one subtraction of `m` reduces it (R104). -/
theorem addmod_toNat {x y m : Word} (hx : x.toNat < m.toNat) (hy : y.toNat < m.toNat) :
    (addmod x y m).toNat = (x.toNat + y.toNat) % m.toNat := by
  have hm := m.isLt
  have wide (w : Word) : (w.zeroExtend 33).toNat = w.toNat :=
    BitVec.toNat_setWidth_of_le (by decide)
  have hsum : (x.zeroExtend 33 + y.zeroExtend 33).toNat = x.toNat + y.toNat := by
    rw [BitVec.toNat_add_of_lt (by rw [wide, wide]; omega), wide, wide]
  have hreach : m.zeroExtend 33 ≤ x.zeroExtend 33 + y.zeroExtend 33 ↔
      m.toNat ≤ x.toNat + y.toNat := by
    rw [BitVec.le_def, wide, hsum]
  rw [Nat.add_mod_eq_ite, Nat.mod_eq_of_lt hx, Nat.mod_eq_of_lt hy]
  simp only [addmod, hreach]
  split <;> rename_i h
  · rw [BitVec.extractLsb'_toNat, Nat.shiftRight_zero, BitVec.toNat_sub_of_le (hreach.2 h), hsum,
      wide, Nat.mod_eq_of_lt (by omega)]
  · rw [BitVec.extractLsb'_toNat, Nat.shiftRight_zero, hsum, Nat.mod_eq_of_lt (by omega)]

theorem addmod_lt {x y m : Word} (hx : x.toNat < m.toNat) (hy : y.toNat < m.toNat) :
    (addmod x y m).toNat < m.toNat :=
  (addmod_toNat hx hy).trans_lt (Nat.mod_lt _ (by omega))

/-- The loop keeps `(acc + a * b) mod m` (R103), with fuel for every bit of the loop operand. -/
theorem doubleAndAdd_toNat (fuel : Nat) {m : Word} :
    ∀ a b acc : Word, a.toNat < 2 ^ fuel → b.toNat < m.toNat → acc.toNat < m.toNat →
      (doubleAndAdd fuel a b acc m).value.toNat = (acc.toNat + a.toNat * b.toNat) % m.toNat := by
  induction fuel with
  | zero =>
    intro a b acc ha hb hacc
    have ha0 : a.toNat = 0 := by simpa using ha
    simp [doubleAndAdd, ha0, Nat.mod_eq_of_lt hacc]
  | succ fuel ih =>
    intro a b acc ha hb hacc
    rw [doubleAndAdd]
    split
    · rw [pow_succ] at ha
      have double : (addmod b b m).toNat ≡ 2 * b.toNat [MOD m.toNat] := by
        rw [addmod_toNat hb hb, two_mul]
        exact Nat.mod_modEq _ _
      have hhalf := double.mul_left (a.toNat / 2)
      rw [← mul_assoc] at hhalf
      rw [ih _ _ _ (by rw [shiftRight_one_toNat]; omega) (addmod_lt hb hb)
        (by split; exacts [addmod_lt hacc hb, hacc]), shiftRight_one_toNat]
      split <;> rename_i hbit <;> rw [getLsbD_zero_iff] at hbit
      · have hodd : a.toNat * b.toNat = b.toNat + a.toNat / 2 * 2 * b.toNat := by
          rw [← one_add_mul, show 1 + a.toNat / 2 * 2 = a.toNat by omega]
        rw [addmod_toNat hacc hb, hodd, ← add_assoc]
        exact (Nat.mod_modEq _ _).add hhalf
      · rw [show a.toNat / 2 * 2 = a.toNat by omega] at hhalf
        exact hhalf.add_left _
    · rename_i hzero
      have hprod : a.toNat * b.toNat = 0 := by
        by_contra hne
        obtain ⟨ha0, hb0⟩ := mul_ne_zero_iff.1 hne
        exact hzero ⟨mt (word_eq_zero_iff a).1 ha0, mt (word_eq_zero_iff b).1 hb0⟩
      rw [hprod, Nat.add_zero, Nat.mod_eq_of_lt hacc]

/-- Which operand drives the loop does not change the product (R103, R110). -/
theorem slowPath_toNat {a b m : Word} (ha : a.toNat < m.toNat) (hb : b.toNat < m.toNat) :
    (slowPath a b m).value.toNat = a.toNat * b.toNat % m.toNat := by
  have hzero : (0#32).toNat < m.toNat := (Nat.zero_le _).trans_lt ha
  rw [slowPath]
  split
  · rw [doubleAndAdd_toNat 32 _ _ _ b.isLt ha hzero, mul_comm]
    simp
  · rw [doubleAndAdd_toNat 32 _ _ _ a.isLt hb hzero]
    simp

/-- The product of two 16-bit operands does not wrap (R102). -/
theorem fastPath_toNat {a b : Word} (ha : a ≤ 0xFFFF#32) (hb : b ≤ 0xFFFF#32) (m : Word) :
    (fastPath a b m).value.toNat = a.toNat * b.toNat % m.toNat := by
  have hprod : a.toNat * b.toNat ≤ 0xFFFF * 0xFFFF := Nat.mul_le_mul ha hb
  rw [fastPath, BitVec.toNat_umod, BitVec.toNat_mul_of_lt (by omega)]

/-- Both paths of the MULMOD datapath return the reduced product (R100). -/
theorem mulmod_toNat {m : Word} (hm : m ≠ 0#32) (a b : Word) :
    (mulmod a b m).value.toNat = a.toNat * b.toNat % m.toNat := by
  have reduced (w : Word) : (w % m).toNat < m.toNat := by
    rw [BitVec.toNat_umod]
    exact Nat.mod_lt _ (toNat_pos_of_ne_zero hm)
  have hprod : (mulmod a b m).value.toNat = (a % m).toNat * (b % m).toNat % m.toNat := by
    simp only [mulmod]
    split
    · rename_i h
      exact fastPath_toNat h.1 h.2 m
    · exact slowPath_toNat (reduced a) (reduced b)
  rw [hprod, BitVec.toNat_umod, BitVec.toNat_umod, ← Nat.mul_mod]

/-! ### POWMOD -/

/-- The POWMOD loop of the datapath goes step by step with the loop on unbounded numbers (R107). -/
theorem powmodLoop_toNat (fuel : Nat) {m : Word} (hm : m ≠ 0#32) :
    ∀ e b r : Word, (powmodLoop fuel e b r m).value.toNat =
      Numeric.powmodLoop fuel e.toNat b.toNat r.toNat m.toNat := by
  induction fuel with
  | zero => exact fun e b r => rfl
  | succ fuel ih =>
    intro e b r
    simp only [powmodLoop, Numeric.powmodLoop, word_eq_zero_iff, getLsbD_zero_iff]
    split_ifs with hzero hbit
    · rfl
    · rw [ih, shiftRight_one_toNat, mulmod_toNat hm, mulmod_toNat hm]
      rfl
    · rw [ih, shiftRight_one_toNat, mulmod_toNat hm]
      rfl

/-- The POWMOD datapath returns the value that the command returns (R110). -/
theorem powmod_toNat {m : Word} (hm : m ≠ 0#32) (b e : Word) :
    (powmod b e m).value.toNat = Numeric.powmod b.toNat e.toNat m.toNat := by
  rw [powmod, powmodLoop_toNat 32 hm, BitVec.toNat_umod]
  rfl

end Datapath

end Sys2Proof.Machine

/-! PROOFS. The statements about MULMOD and POWMOD, the commands and their datapath. -/

namespace Sys2Proof.Proofs

open Sys2Proof Sys2Proof.Machine

/-! ### MULMOD and POWMOD -/

/-- Settles O22: a modulus of 0 raises the error, and any other completes with the reduced product. -/
theorem mulmodResultIsTheReducedProduct : Obligations.MulmodResultIsTheReducedProduct := by
  refine ⟨decode_encode .mulmod, fun s q hq => ⟨fun hm => ?_, fun hm => ?_⟩⟩
  · exact exec_of_invalidModulus .mulmod hq (mulmodRule_modulus_zero hm)
  · obtain ⟨v, hrule, hv⟩ := mulmodRule_complete hm
    exact ⟨v, hv, exec_of_complete .mulmod hq hrule⟩

/-- Settles O23: a modulus of 0 raises the error, and any other completes with the reduced power, for
which the base may be reduced first. -/
theorem powmodResultIsTheReducedPower : Obligations.PowmodResultIsTheReducedPower := by
  refine ⟨decode_encode .powmod, fun s q hq => ⟨fun hm => ?_, fun hm => ?_⟩⟩
  · exact exec_of_invalidModulus .powmod hq (powmodRule_modulus_zero hm)
  · obtain ⟨v, hrule, hv⟩ := powmodRule_complete hm
    exact ⟨v, by rw [hv, Nat.pow_mod], exec_of_complete .powmod hq hrule⟩

/-- Settles O33: the power is 1 with exponent 0, and every number reduces to 0 by 1. -/
theorem powmodOfExponentZero : Obligations.PowmodOfExponentZero := by
  intro s q hq
  refine ⟨fun hb hm => ?_, fun hm => ?_⟩
  · refine exec_powmod_result hq (by bv_omega) ?_
    simpa [hb] using Nat.mod_eq_of_lt hm
  · refine exec_powmod_result hq (by simp [hm]) ?_
    simp [hm, Nat.mod_one]

/-- Settles O35, by Euler's theorem: the base is coprime to the prime, whose totient is the exponent. -/
theorem powmodFermatProperty : Obligations.PowmodFermatProperty := by
  intro s q hq hprime hpos hlt hexp
  have hcoprime : q.a.toNat.Coprime q.m.toNat :=
    (Nat.coprime_of_lt_prime (by omega) hlt hprime).symm
  have hpow : q.a.toNat ^ q.b.toNat ≡ 1 [MOD q.m.toNat] := by
    rw [hexp, ← Nat.totient_prime hprime]
    exact Nat.ModEq.pow_totient hcoprime
  have hm : q.m ≠ 0#32 := fun h => hprime.ne_zero (by simp [h])
  exact exec_powmod_result hq hm (Eq.trans hpow (Nat.mod_eq_of_lt hprime.one_lt))

/-! ### The datapath -/

/-- Settles O39: a sum of two reduced values is reduced by at most one subtraction. -/
theorem modularAdderIsExact : Obligations.ModularAdderIsExact := by
  intro x y m hx hy
  refine ⟨?_, Datapath.addmod_lt hx hy⟩
  rw [Datapath.addmod_toNat hx hy, Nat.add_mod_eq_ite, Nat.mod_eq_of_lt hx, Nat.mod_eq_of_lt hy]

/-- Settles O40: the fast path does not wrap, and the slow path keeps the loop invariant of R103. -/
theorem mulmodDatapathReturnsTheProduct : Obligations.MulmodDatapathReturnsTheProduct :=
  fun a b _ hm => Datapath.mulmod_toNat hm a b

/-- Settles O41: the datapath follows the loop on unbounded numbers, which computes the power. -/
theorem powmodDatapathReturnsThePower : Obligations.PowmodDatapathReturnsThePower := by
  intro b e m hm
  rw [Datapath.powmod_toNat hm, Numeric.powmod_eq (toNat_pos_of_ne_zero hm) e.isLt, Nat.pow_mod]

end Sys2Proof.Proofs

/-! SUPPORT. What trial division decides, and that the trial-division and divisor-scan datapaths return
the values of the commands. -/

namespace Sys2Proof.Machine

/-! ### The trial division -/

/-- An odd number that passes has no even divisor either, so R120's predicate is primality (R123). -/
theorem trialPrime_iff_prime (n : Nat) : trialPrime n ↔ n.Prime := by
  constructor
  · rintro (rfl | ⟨h2, hodd, hdiv⟩)
    · exact Nat.prime_two
    · refine Nat.prime_def_le_sqrt.2 ⟨h2, fun d hd hsqrt hdvd => ?_⟩
      have hd_odd : d % 2 = 1 := Nat.odd_iff.1 ((Nat.odd_iff.2 hodd).of_dvd_nat hdvd)
      exact hdiv d hd_odd (by omega) hsqrt (Nat.mod_eq_zero_of_dvd hdvd)
  · intro hp
    rcases hp.eq_two_or_odd with h | hodd
    · exact .inl h
    · refine .inr ⟨hp.two_le, hodd, fun d _ h3 hsqrt h0 => ?_⟩
      exact (Nat.prime_def_le_sqrt.1 hp).2 d (by omega) hsqrt (Nat.dvd_of_mod_eq_zero h0)

/-- The loop's fuel reaches past the square root of every 32-bit operand (R122). -/
theorem Numeric.prime32_iff (n : Word) : prime32 n = true ↔ trialPrime n.toNat := by
  have hfuel : n.toNat < (3 + 2 * maxTrials) ^ 2 := n.isLt.trans (by decide)
  have hloop := noOddDivisor_iff n.toNat maxTrials 3 rfl hfuel
  simp only [prime32, trialPrime, Nat.le_sqrt]
  split_ifs with htwo hsmall
  · simp [htwo]
  · simp only [false_iff]
    omega
  · rw [hloop]
    exact ⟨fun h => .inr ⟨by omega, by omega, h⟩, fun h => (h.resolve_left htwo).2.2⟩

/-! ### The results of ISPRIME and ISPRIME.S -/

theorem ofBool_eq_one_iff (b : Bool) : ofBool b = 1#32 ↔ b = true := by cases b <;> decide

theorem ofBool_eq_zero_iff (b : Bool) : ofBool b = 0#32 ↔ b = false := by cases b <;> decide

/-- A `bool` result that decides `P` is 1 where `P` holds, else 0 (R28). -/
theorem ofBool_cases {b : Bool} {P : Prop} (h : b = true ↔ P) :
    (ofBool b = 1#32 ∧ P) ∨ (ofBool b = 0#32 ∧ ¬ P) := by
  rw [ofBool_eq_one_iff, ofBool_eq_zero_iff, ← h]
  cases b <;> simp

/-- Bit 31 is the sign of `int32` (R121). -/
theorem negative_iff (n : Word) : negative n = true ↔ n.toInt < 0 := by
  have hsign : negative n = n.msb := n.msb_eq_getLsbD_last.symm
  rw [hsign, BitVec.msb_eq_toInt, decide_eq_true_iff]

/-- ISPRIME.S completes with one predicate of the operand: not negative and prime (R121). -/
theorem isprimeSRule_eq (q : Snapshot) :
    isprimeSRule q = .complete (ofBool (!negative q.a && Numeric.prime32 q.a)) := by
  cases h : negative q.a <;> simp [isprimeSRule, h, ofBool]

/-- A word that is not negative is the same number in both readings (R121). -/
theorem isprimeS_iff (n : Word) : (!negative n && Numeric.prime32 n) = true ↔
    0 ≤ n.toInt ∧ trialPrime n.toInt.toNat := by
  rw [Bool.and_eq_true, Bool.not_eq_true', ← Bool.not_eq_true, negative_iff, Int.not_lt,
    Numeric.prime32_iff]
  refine and_congr_right fun hpos => ?_
  have hmsb : n.msb = false := by rw [BitVec.msb_eq_toInt, decide_eq_false (Int.not_lt.2 hpos)]
  rw [BitVec.toNat_toInt_of_msb n hmsb]

namespace Datapath

/-! ### The trial-division and divisor-scan datapaths -/

/-- 33 bits hold the square of every trial divisor up to 65537, so the loop goes step by step with the
one on unbounded numbers (R122). -/
theorem trialLoop_value (n : Word) (fuel : Nat) :
    ∀ d : Sum33, d.toNat + 2 * fuel ≤ 65537 →
      (trialLoop fuel d n).value = Numeric.noOddDivisor fuel d.toNat n.toNat := by
  have hn : (n.zeroExtend 33).toNat = n.toNat := BitVec.toNat_setWidth_of_le (by decide)
  induction fuel with
  | zero => exact fun d _ => rfl
  | succ fuel ih =>
    intro d hd
    have hle : d.toNat ≤ 65537 := by omega
    have hsq : (d * d).toNat = d.toNat * d.toNat :=
      BitVec.toNat_mul_of_lt ((Nat.mul_le_mul hle hle).trans_lt (by decide))
    have hnext : (d + 2#33).toNat = d.toNat + 2 :=
      BitVec.toNat_add_of_lt (show d.toNat + 2 < 2 ^ 33 by omega)
    have hpast : n.zeroExtend 33 < d * d ↔ n.toNat < d.toNat * d.toNat := by
      rw [BitVec.lt_def, hn, hsq]
    have hdivides : n.zeroExtend 33 % d = 0#33 ↔ n.toNat % d.toNat = 0 := by
      rw [← BitVec.toNat_inj, BitVec.toNat_umod, hn]
      rfl
    simp only [trialLoop, Numeric.noOddDivisor, hpast, hdivides]
    split_ifs
    · rfl
    · rfl
    · rw [ih _ (by omega), hnext]

/-- The ISPRIME datapath returns the command's predicate (R123). -/
theorem prime32_value (n : Word) : (prime32 n).value = Numeric.prime32 n := by
  have hloop := trialLoop_value n Numeric.maxTrials 3#33 (by decide)
  have htwo : n = 2#32 ↔ n.toNat = 2 := BitVec.toNat_inj.symm
  have hsmall : (n < 2#32 ∨ n.getLsbD 0 = false) ↔ (n.toNat < 2 ∨ n.toNat % 2 = 0) := by
    rw [BitVec.lt_def, ← Bool.not_eq_true, getLsbD_zero_iff, Nat.mod_two_not_eq_one]
    rfl
  simp only [prime32, Numeric.prime32, htwo, hsmall]
  split_ifs
  · rfl
  · rfl
  · exact hloop

/-- The divisor scan finds the first match of R130, since each of its powers is the command's. -/
theorem scan_toNat {n : Word} (hn : n ≠ 0#32) (r : Word) (ds : List Word) :
    (scan r n ds).value.toNat =
      Numeric.firstMatch r.toNat n.toNat (ds.map BitVec.toNat) := by
  induction ds with
  | nil => rfl
  | cons d ds ih =>
    have hmatch : (powmod r d n).value = 1#32 ↔
        Numeric.powmod r.toNat d.toNat n.toNat = 1 := by
      rw [← powmod_toNat hn, ← BitVec.toNat_inj]
      rfl
    simp only [scan, List.map_cons, Numeric.firstMatch, hmatch]
    split_ifs
    · rfl
    · exact ih

/-- The MULORD datapath returns the command's value (R130). -/
theorem order_toNat {n : Word} (hn : n ≠ 0#32) (r : Word) (ds : List Word) :
    (order r n ds).value.toNat =
      Numeric.order r.toNat n.toNat (ds.map BitVec.toNat) := by
  rw [order, scan_toNat hn, BitVec.toNat_umod]
  rfl

end Datapath

end Sys2Proof.Machine

/-! PROOFS. The statements about ISPRIME, ISPRIME.S and the datapaths of the tests they make. -/

namespace Sys2Proof.Proofs

open Sys2Proof Sys2Proof.Machine

/-! ### ISPRIME and ISPRIME.S -/

/-- Settles O24: the loop on the operand is the rule's trial division. -/
theorem isprimeResultIsTheTrialDivision : Obligations.IsprimeResultIsTheTrialDivision :=
  ⟨decode_encode .isprime, fun _ q hq =>
    ⟨_, ofBool_cases (Numeric.prime32_iff q.a), exec_of_complete .isprime hq rfl⟩⟩

/-- Settles O25: bit 31 is the sign, and without it both readings of the operand agree. -/
theorem isprimeSResultReadsASignedOperand : Obligations.IsprimeSResultReadsASignedOperand := by
  refine ⟨decode_encode .isprimeS, fun s q hq =>
    ⟨_, ?_, exec_of_complete .isprimeS hq (isprimeSRule_eq q)⟩⟩
  have hresult := ofBool_cases (isprimeS_iff q.a)
  rwa [not_and_or, Int.not_le] at hresult

/-- Settles O34: the trial division of O24 is primality. -/
theorem isprimeDecidesPrimality : Obligations.IsprimeDecidesPrimality := by
  intro s q hq
  have hprime := (Numeric.prime32_iff q.a).trans (trialPrime_iff_prime q.a.toNat)
  refine ⟨_, exec_of_complete .isprime hq rfl, ?_, ?_⟩
  · rw [ofBool_eq_one_iff, hprime]
  · rw [ofBool_eq_zero_iff, ← Bool.not_eq_true, hprime]

/-! ### The datapaths -/

/-- Settles O42: both datapaths go step by step with the loops on unbounded numbers. -/
theorem trialAndOrderDatapathsAgree : Obligations.TrialAndOrderDatapathsAgree :=
  ⟨Datapath.prime32_value, fun r _ ds hn => Datapath.order_toNat hn r ds⟩

end Sys2Proof.Proofs

/-! SUPPORT. What MULORD and ISPRIMROOT compute from a snapshot, and what the divisor scan finds on the
registers that SAFEPRIME loads. -/

namespace Sys2Proof.Machine

/-! ### The two errors and the completion that MULORD and ISPRIMROOT share -/

/-- A held command that raises an error leaves its code in ERRCODE and `info` in RESULT (R203). -/
theorem exec_of_raise (i : Instr) {s : State} {q : Snapshot} (hq : s.engine = .busy q)
    {e : CommandError} {info : Word} (h : ruleOf s i q = .raise e info) :
    exec i s = .next { s with
      result := info, err := true, errcode := e.code, busy := false, done := true
      engine := .idle } := by
  rw [exec_busy i hq, h]
  cases e <;> rfl

/-- How both commands end when their value is `v`: the modulus is checked first (R130, R135, R204). -/
def orderEnd (q : Snapshot) (v : Word) : CommandOutcome :=
  if q.m = 0#32 then .raise .invalidModulus 0#32
  else if q.tooManyDivisors then .raise .badDivcnt 0#32
  else .complete v

theorem mulordRule_eq (q : Snapshot) : mulordRule q = orderEnd q (u32 q.order) := rfl

theorem isprimrootRule_eq (q : Snapshot) :
    isprimrootRule q = orderEnd q (ofBool (q.order == q.t.toNat)) := rfl

theorem Snapshot.tooManyDivisors_iff (q : Snapshot) :
    q.tooManyDivisors = true ↔ 8 < q.divcnt.toNat := decide_eq_true_iff

theorem orderEnd_modulus_zero {q : Snapshot} (hm : q.m = 0#32) (v : Word) :
    orderEnd q v = .raise .invalidModulus 0#32 := if_pos hm

theorem orderEnd_badDivcnt {q : Snapshot} (hm : q.m ≠ 0#32) (hcnt : 8 < q.divcnt.toNat) (v : Word) :
    orderEnd q v = .raise .badDivcnt 0#32 := by
  rw [orderEnd, if_neg hm, if_pos (q.tooManyDivisors_iff.2 hcnt)]

theorem orderEnd_complete {q : Snapshot} (hm : q.m ≠ 0#32) (hcnt : q.divcnt.toNat ≤ 8) (v : Word) :
    orderEnd q v = .complete v := by
  rw [orderEnd, if_neg hm, if_neg (mt q.tooManyDivisors_iff.1 (Nat.not_lt.2 hcnt))]

/-! ### The divisor sequence -/

theorem Snapshot.divisors_length {q : Snapshot} (hcnt : q.divcnt.toNat ≤ 8) :
    q.divisors.length = q.divcnt.toNat := by
  simpa [Snapshot.divisors] using hcnt

theorem Snapshot.divisors_getElem (q : Snapshot) {i : Fin 8} (hi : i.val < q.divisors.length) :
    q.divisors[i.val] = q.div[i].toNat := by
  simp [Snapshot.divisors]

/-- A divisor register at a counted index is in the sequence (R76). -/
theorem Snapshot.mem_divisors {q : Snapshot} {i : Fin 8} (hi : i.val < q.divcnt.toNat)
    (hcnt : q.divcnt.toNat ≤ 8) : q.div[i].toNat ∈ q.divisors := by
  have hlt : i.val < q.divisors.length := by rwa [divisors_length hcnt]
  exact q.divisors_getElem hlt ▸ List.getElem_mem hlt

/-- Where the sequence is cut at an element, that element is in a counted divisor register, and those
of lower index hold what stands before it. -/
theorem Snapshot.divisors_split {q : Snapshot} (hcnt : q.divcnt.toNat ≤ 8)
    {before after : List Nat} {d : Nat} (h : q.divisors = before ++ d :: after) :
    ∃ i : Fin 8, i.val < q.divcnt.toNat ∧ q.div[i].toNat = d ∧
      ∀ j : Fin 8, j.val < i.val → q.div[j].toNat ∈ before := by
  have hlen := congrArg List.length h
  rw [divisors_length hcnt, List.length_append, List.length_cons] at hlen
  have hreg (j : Fin 8) (hj : j.val < (before ++ d :: after).length) :
      q.div[j].toNat = (before ++ d :: after)[j.val] := by
    have hj' : j.val < q.divisors.length := h ▸ hj
    rw [← q.divisors_getElem hj']
    simp only [h]
  refine ⟨⟨before.length, by omega⟩, ?_, ?_, fun j hj => ?_⟩
  · dsimp only
    omega
  · rw [hreg _ (by simp)]
    simp
  · have hj : j.val < before.length := hj
    rw [hreg _ (by simp; omega), List.getElem_append_left hj]
    exact List.getElem_mem hj

/-! ### The value of the divisor scan -/

theorem divisorMatches_iff_powmod {q : Snapshot} (hm : q.m ≠ 0#32) (i : Fin 8) :
    divisorMatches q i ↔
      Numeric.powmod (q.a.toNat % q.m.toNat) q.div[i].toNat q.m.toNat = 1 := by
  rw [Numeric.powmod_eq (toNat_pos_of_ne_zero hm) q.div[i].isLt, divisorMatches]

/-- The scan of the divisor sequence returns R130's value, which is a word. -/
theorem Snapshot.exists_isOrderValue {q : Snapshot} (hm : q.m ≠ 0#32) (hcnt : q.divcnt.toNat ≤ 8) :
    ∃ v : Word, isOrderValue q v ∧ q.order = v.toNat := by
  rcases Numeric.firstMatch_cases (q.a.toNat % q.m.toNat) q.m.toNat q.divisors with
    ⟨before, d, after, hsplit, hd, hbefore, hvalue⟩ | ⟨hnone, hvalue⟩
  · obtain ⟨i, hi, rfl, hfirst⟩ := divisors_split hcnt hsplit
    exact ⟨q.div[i], .inl ⟨i, hi, (divisorMatches_iff_powmod hm i).2 hd, rfl, fun j hj =>
      mt (divisorMatches_iff_powmod hm j).1 (hbefore _ (hfirst j hj))⟩, hvalue⟩
  · exact ⟨0#32, .inr ⟨fun i hi => mt (divisorMatches_iff_powmod hm i).1
      (hnone _ (mem_divisors hi hcnt)), rfl⟩, hvalue⟩

/-- MULORD completes with R130's value. -/
theorem mulordRule_complete {q : Snapshot} (hm : q.m ≠ 0#32) (hcnt : q.divcnt.toNat ≤ 8) :
    ∃ v : Word, isOrderValue q v ∧ q.order = v.toNat ∧ mulordRule q = .complete v := by
  obtain ⟨v, hv, horder⟩ := Snapshot.exists_isOrderValue hm hcnt
  refine ⟨v, hv, horder, ?_⟩
  rw [mulordRule_eq, orderEnd_complete hm hcnt, horder, u32, BitVec.ofNat_toNat, BitVec.setWidth_eq]

/-- ISPRIMROOT completes with the comparison of R130's value with the totient operand (R135). -/
theorem isprimrootRule_complete {q : Snapshot} (hm : q.m ≠ 0#32) (hcnt : q.divcnt.toNat ≤ 8) :
    ∃ v : Word, isOrderValue q v ∧
      isprimrootRule q = .complete (if v = q.t then 1#32 else 0#32) := by
  obtain ⟨v, hv, horder⟩ := Snapshot.exists_isOrderValue hm hcnt
  refine ⟨v, hv, ?_⟩
  rw [isprimrootRule_eq, orderEnd_complete hm hcnt, horder]
  simp [ofBool, BitVec.toNat_inj]

/-- The base enters MULORD's rule by its value modulo M only (R134). -/
theorem mulordRule_congr {q : Snapshot} {a : Word}
    (h : a.toNat % q.m.toNat = q.a.toNat % q.m.toNat) : mulordRule { q with a := a } = mulordRule q := by
  have horder : Snapshot.order { q with a := a } = q.order :=
    congrArg (Numeric.firstMatch · q.m.toNat q.divisors) h
  rw [mulordRule_eq, mulordRule_eq, horder]
  rfl

/-- The value is 0 where no counted divisor but 0 can match. -/
theorem isOrderValue.eq_zero {q : Snapshot} {v : Word} (h : isOrderValue q v)
    (hzero : ∀ i : Fin 8, i.val < q.divcnt.toNat → divisorMatches q i → q.div[i] = 0#32) :
    v = 0#32 := by
  rcases h with ⟨i, hi, hmatch, rfl, -⟩ | ⟨-, rfl⟩
  · exact hzero i hi hmatch
  · rfl

/-- The value is in no register after a counted one that matches (R131). -/
theorem isOrderValue.exists_le {q : Snapshot} {v : Word} (h : isOrderValue q v) {k : Fin 8}
    (hk : k.val < q.divcnt.toNat) (hmatch : divisorMatches q k) :
    ∃ i : Fin 8, i.val ≤ k.val ∧ divisorMatches q i ∧ v = q.div[i] := by
  rcases h with ⟨i, -, hi, rfl, hfirst⟩ | ⟨hnone, -⟩
  · exact ⟨i, Nat.not_lt.1 fun hki => hfirst k hki hmatch, hi, rfl⟩
  · exact absurd hmatch (hnone k hk)

/-! ### The multiplicative order -/

/-- A power of the base is 1 modulo `n` when the order of the base divides the exponent. -/
theorem Numeric.powmod_eq_one_iff (a : Nat) {n d : Nat} (hn : 1 < n) (hd : d < 2 ^ 32) :
    powmod (a % n) d n = 1 ↔ orderOf (a : ZMod n) ∣ d := by
  rw [powmod_eq (by omega) hd, ← Nat.pow_mod, orderOf_dvd_iff_pow_eq_one, ← Nat.cast_pow,
    ← Nat.cast_one (R := ZMod n), ZMod.natCast_eq_natCast_iff', Nat.mod_eq_of_lt hn]

/-- On an ascending sequence of positive numbers that has the order of the base in it, the scan stops
at the order: what stands before it is smaller, so no multiple of it (R133). -/
theorem Numeric.order_eq_orderOf (a : Nat) {n : Nat} (hn : 1 < n) {ds : List Nat}
    (hword : ∀ d ∈ ds, d < 2 ^ 32) (hpos : ∀ d ∈ ds, 0 < d) (hascending : ds.Pairwise (· ≤ ·))
    (hmem : orderOf (a : ZMod n) ∈ ds) : order a n ds = orderOf (a : ZMod n) := by
  have hiff (d : Nat) (hd : d ∈ ds) := powmod_eq_one_iff a hn (hword d hd)
  have hself := (hiff _ hmem).2 dvd_rfl
  rcases firstMatch_cases (a % n) n ds with ⟨before, d, after, rfl, hd, hbefore, hvalue⟩ | ⟨hnone, -⟩
  · have hdmem : d ∈ before ++ d :: after := by simp
    have hle : orderOf (a : ZMod n) ≤ d := Nat.le_of_dvd (hpos d hdmem) ((hiff d hdmem).1 hd)
    have hge : d ≤ orderOf (a : ZMod n) := by
      rcases List.mem_append.1 hmem with hb | ha
      · exact absurd hself (hbefore _ hb)
      · rcases List.mem_cons.1 ha with heq | ha
        · exact heq.ge
        · exact List.rel_of_pairwise_cons (List.pairwise_append.1 hascending).2.1 ha
    exact hvalue.trans (le_antisymm hge hle)
  · exact absurd hself (hnone _ hmem)

/-! ### The registers SAFEPRIME loads -/

theorem State.load_div_eq (s : State) (o : OrderLoad) : (s.load o).div =
    #v[o.div0, o.div1, o.div2, o.div3, s.div[4], s.div[5], s.div[6], s.div[7]] := by
  ext i hi
  simp only [State.load_div, Vector.getElem_set]
  interval_cases i <;> rfl

theorem orderLoad_opm_toNat {p : Nat} (hp : p < 2 ^ 31) : (orderLoad p).opm.toNat = 2 * p + 1 := by
  by_cases h2 : p = 2
  · subst h2
    rfl
  · rw [orderLoad, if_neg h2]
    exact u32_toNat (by omega)

theorem orderLoad_divcnt_le (p : Nat) : (orderLoad p).divcnt.toNat ≤ 8 := by
  by_cases h2 : p = 2
  · subst h2
    decide
  · rw [orderLoad, if_neg h2]
    exact show (4#4).toNat ≤ 8 by decide

/-- The divisor sequence of a snapshot taken with the loaded registers (R153). -/
theorem divisors_capture_load (u : State) (w : Word) {p : Nat} (hp : p < 2 ^ 31) :
    ((u.load (orderLoad p)).capture w).divisors = if p = 2 then [1, 2, 4] else [1, 2, p, 2 * p] := by
  have hsmall : (u32 p).toNat = p := u32_toNat (by omega)
  have hdouble : (u32 (2 * p)).toNat = 2 * p := u32_toNat (by omega)
  simp only [Snapshot.divisors, State.capture, State.load_div_eq, State.load_divcnt, orderLoad]
  split_ifs
  · rfl
  · simp [hsmall, hdouble]

/-- The divisors of `2p` for a prime `p` are 1, 2, `p` and `2p`. -/
theorem dvd_two_mul_prime {p d : Nat} (hp : p.Prime) (hd : d ∣ 2 * p) :
    d = 1 ∨ d = 2 ∨ d = p ∨ d = 2 * p := by
  obtain ⟨x, y, hx, hy, rfl⟩ := Nat.dvd_mul.1 hd
  rcases (Nat.dvd_prime Nat.prime_two).1 hx with rfl | rfl <;>
    rcases (Nat.dvd_prime hp).1 hy with rfl | rfl <;> simp

/-- By Fermat's theorem, the order modulo the safe prime of an `r` that is not 0 divides `2p`. -/
theorem orderOf_dvd_two_mul {p a : Nat} (hn : (2 * p + 1).Prime) (ha : a % (2 * p + 1) ≠ 0) :
    orderOf (a : ZMod (2 * p + 1)) ∣ 2 * p := by
  have := Fact.mk hn
  exact ZMod.orderOf_dvd_card_sub_one
    (mt (ZMod.natCast_eq_zero_iff a _).1 (mt Nat.mod_eq_zero_of_dvd ha))

/-- On the registers SAFEPRIME loads for `p`, the scan returns the order of the base (R137). -/
theorem order_capture_load (u : State) (w : Word) {p : Nat} (hp : p.Prime) (hn : (2 * p + 1).Prime)
    (hlt : p < 2 ^ 31) (ha : u.opa.toNat % (2 * p + 1) ≠ 0) :
    ((u.load (orderLoad p)).capture w).order = orderOf (u.opa.toNat : ZMod (2 * p + 1)) := by
  have hmem := dvd_two_mul_prime hp (orderOf_dvd_two_mul hn ha)
  have hp2 := hp.two_le
  rw [Snapshot.order, divisors_capture_load u w hlt]
  simp only [State.capture, State.load_opa, State.load_opm, orderLoad_opm_toNat hlt]
  split_ifs with htwo
  · subst htwo
    refine Numeric.order_eq_orderOf _ (by decide) (by decide) (by decide) (by decide) ?_
    simpa using hmem
  · refine Numeric.order_eq_orderOf _ (by omega) ?_ ?_ ?_ (by simpa using hmem)
    · simp; omega
    · simp; omega
    · simp; omega

end Sys2Proof.Machine

/-! PROOFS. The statements about MULORD and ISPRIMROOT. -/

namespace Sys2Proof.Proofs

open Sys2Proof Sys2Proof.Machine

/-- Settles O26: the modulus is checked before the divisor count, and then the scan stops at the first
match in index order. -/
theorem mulordResultIsTheFirstMatchingDivisor :
    Obligations.MulordResultIsTheFirstMatchingDivisor := by
  refine ⟨decode_encode .mulord, fun s q hq =>
    ⟨fun hm => ?_, fun hm hcnt => ?_, fun hm hcnt => ?_⟩⟩
  · exact exec_of_invalidModulus .mulord hq (orderEnd_modulus_zero hm _)
  · exact exec_of_raise .mulord hq (orderEnd_badDivcnt hm hcnt _)
  · obtain ⟨v, hv, -, hrule⟩ := mulordRule_complete hm hcnt
    exact ⟨v, hv, exec_of_complete .mulord hq hrule⟩

/-- Settles O27: the errors are MULORD's, and the value compared is MULORD's, the sentinel included. -/
theorem isprimrootComparesTheOrderWithTheTotient :
    Obligations.IsprimrootComparesTheOrderWithTheTotient := by
  refine ⟨decode_encode .isprimroot, fun s q hq =>
    ⟨fun hm => ?_, fun hm hcnt => ?_, fun hm hcnt => ?_⟩⟩
  · exact exec_of_invalidModulus .isprimroot hq (orderEnd_modulus_zero hm _)
  · exact exec_of_raise .isprimroot hq (orderEnd_badDivcnt hm hcnt _)
  · obtain ⟨v, hv, hrule⟩ := isprimrootRule_complete hm hcnt
    exact ⟨v, hv, exec_of_complete .isprimroot hq hrule⟩

/-- Settles O36: modulo 1 no power is 1, a base that reduces to 0 has the power 1 with exponent 0 only,
and a divisor 0 matches every base modulo more than 1. -/
theorem mulordCornerCases : Obligations.MulordCornerCases := by
  intro s q hq hm hcnt
  obtain ⟨v, hv, -, hrule⟩ := mulordRule_complete hm hcnt
  refine ⟨_, exec_of_complete .mulord hq hrule, fun hone => ?_, fun hbase => ?_, fun hempty => ?_,
    fun i hi hzero hlt => ?_, fun u a ha hu => ?_⟩
  · refine hv.eq_zero fun i _ hmatch => ?_
    simp [divisorMatches, hone, Nat.mod_one] at hmatch
  · refine hv.eq_zero fun i _ hmatch => ?_
    by_contra hne
    rw [divisorMatches, hbase, Nat.zero_pow (toNat_pos_of_ne_zero hne), Nat.zero_mod] at hmatch
    exact zero_ne_one hmatch
  · refine hv.eq_zero fun i hi _ => ?_
    simp [hempty] at hi
  · have hmatch : divisorMatches q i := by
      simpa [divisorMatches, hzero] using Nat.mod_eq_of_lt hlt
    obtain ⟨j, hji, hj, hvj⟩ := hv.exists_le hi hmatch
    rcases hji.lt_or_eq with hlt | heq
    · exact .inr ⟨j, hlt, hj, hvj⟩
    · obtain rfl : j = i := Fin.ext heq
      exact .inl (hvj.trans hzero)
  · exact ⟨_, exec_of_complete .mulord hu ((mulordRule_congr ha).trans hrule), rfl⟩

/-- Settles O37: the order of `r` divides `n - 1 = 2p`, so it is in the loaded sequence, which is
ascending, and the scan stops at it. -/
theorem safePrimeOrderIsTheMultiplicativeOrder :
    Obligations.SafePrimeOrderIsTheMultiplicativeOrder := by
  rintro s u q p w hp hn hlt hq rfl ha
  have hm : (orderLoad p).opm ≠ 0#32 := fun h => by simpa [h] using orderLoad_opm_toNat hlt
  obtain ⟨v, -, hv, hrule⟩ :=
    mulordRule_complete (q := (u.load (orderLoad p)).capture w) hm (orderLoad_divcnt_le p)
  have horder : v.toNat = orderOf (u.opa.toNat : ZMod (2 * p + 1)) :=
    hv.symm.trans (order_capture_load u w hp hn hlt ha)
  have hdvd : v.toNat ∣ 2 * p := horder ▸ orderOf_dvd_two_mul hn ha
  have hpos : 0 < v.toNat := Nat.pos_of_dvd_of_pos hdvd (Nat.mul_pos two_pos hp.pos)
  exact ⟨_, exec_of_complete .mulord hq hrule, rfl, horder, mt (word_eq_zero_iff v).1 hpos.ne',
    dvd_two_mul_prime hp hdvd⟩

end Sys2Proof.Proofs

/-! SUPPORT. What SAFEPRIME checks and loads. -/

namespace Sys2Proof.Machine

/-! ### The failure mask -/

/-- The mask is 0 where both checks pass (R151). -/
theorem failMask_eq_zero_iff :
    ∀ safe germain : Bool, failMask safe germain = 0#32 ↔ safe = true ∧ germain = true := by decide

/-- Bit 0 of the mask is for the safe prime, bit 1 for the Sophie Germain prime (R151). -/
theorem failMask_bits : ∀ safe germain : Bool, (failMask safe germain).toNat < 4 ∧
    ((failMask safe germain).getLsbD 0 = true ↔ ¬ safe = true) ∧
    ((failMask safe germain).getLsbD 1 = true ↔ ¬ germain = true) := by decide

/-- The mask SAFEPRIME forms from the trial divisions of `2p + 1` and `p`, for `p = snap.A` (R151). -/
def Snapshot.primeMask (q : Snapshot) : Word :=
  failMask (Numeric.prime32 (u32 (2 * q.a.toNat + 1))) (Numeric.prime32 q.a)

section PrimeMask
variable {q : Snapshot} (hlt : q.a.toNat < 2 ^ 31)
include hlt

/-- Below `2^31` the safe prime is a word, so its trial division is that of `2p + 1` (R152). -/
theorem prime32_safePrime_iff :
    Numeric.prime32 (u32 (2 * q.a.toNat + 1)) = true ↔ trialPrime (2 * q.a.toNat + 1) := by
  rw [Numeric.prime32_iff, u32_toNat (by omega)]

theorem Snapshot.primeMask_eq_zero_iff :
    q.primeMask = 0#32 ↔ trialPrime (2 * q.a.toNat + 1) ∧ trialPrime q.a.toNat := by
  rw [primeMask, failMask_eq_zero_iff, prime32_safePrime_iff hlt, Numeric.prime32_iff]

theorem Snapshot.primeMask_bits : q.primeMask.toNat < 4 ∧
    (q.primeMask.getLsbD 0 = true ↔ ¬ trialPrime (2 * q.a.toNat + 1)) ∧
    (q.primeMask.getLsbD 1 = true ↔ ¬ trialPrime q.a.toNat) := by
  rw [← prime32_safePrime_iff hlt, ← Numeric.prime32_iff]
  exact failMask_bits _ _

end PrimeMask

/-! ### The three ends of SAFEPRIME -/

theorem safeprimeRule_range {q : Snapshot} (h : 2 ^ 31 ≤ q.a.toNat) :
    safeprimeRule q = .raise .range 0#32 := if_pos h

theorem safeprimeRule_notPrime {q : Snapshot} (hlt : q.a.toNat < 2 ^ 31)
    (h : ¬ (trialPrime (2 * q.a.toNat + 1) ∧ trialPrime q.a.toNat)) :
    safeprimeRule q = .raise .notPrime q.primeMask := by
  have hmask : q.primeMask ≠ 0#32 := mt (Snapshot.primeMask_eq_zero_iff hlt).1 h
  exact (if_neg (Nat.not_le.2 hlt)).trans (if_pos hmask)

theorem safeprimeRule_loads {q : Snapshot} (hlt : q.a.toNat < 2 ^ 31)
    (hn : trialPrime (2 * q.a.toNat + 1)) (hp : trialPrime q.a.toNat) :
    safeprimeRule q = .completeLoading (u32 (2 * q.a.toNat + 1)) (orderLoad q.a.toNat) := by
  have hmask : q.primeMask = 0#32 := (Snapshot.primeMask_eq_zero_iff hlt).2 ⟨hn, hp⟩
  exact (if_neg (Nat.not_le.2 hlt)).trans (if_neg (not_not.2 hmask))

/-- A held command that completes with side writes changes the loaded registers too, but not DIV(4..7)
(R150). -/
theorem exec_of_completeLoading (i : Instr) {s : State} {q : Snapshot} (hq : s.engine = .busy q)
    {v : Word} {o : OrderLoad} (h : ruleOf s i q = .completeLoading v o) :
    exec i s = .next { s with
      result := v, opm := o.opm, opt := o.opt, divcnt := o.divcnt
      div := #v[o.div0, o.div1, o.div2, o.div3, s.div[4], s.div[5], s.div[6], s.div[7]]
      err := false, errcode := 0#4, busy := false, done := true, engine := .idle } := by
  rw [exec_busy i hq, h, ← State.load_div_eq]
  rfl

/-- The load for `p = 2` differs from the others in DIV(2), DIV(3) and DIVCNT only (R153). -/
theorem orderLoad_eq (p : Nat) : orderLoad p =
    { opm := u32 (2 * p + 1), opt := u32 (2 * p), div0 := 1#32, div1 := 2#32
      div2 := if p = 2 then 4#32 else u32 p, div3 := if p = 2 then 0#32 else u32 (2 * p)
      divcnt := if p = 2 then 3#4 else 4#4 } := by
  by_cases h : p = 2
  · subst h
    rfl
  · simp only [orderLoad, if_neg h]

/-! ### ISPRIMROOT on the loaded registers -/

/-- `g` is a primitive root of `2p + 1`, for a prime `2p + 1` (R155). -/
abbrev IsSafePrimeRoot (p g : Nat) : Prop := orderOf (g : ZMod (2 * p + 1)) = 2 * p

/-- A candidate from 1 to `2p` is not 0 modulo `2p + 1`. -/
theorem candidate_mod_ne_zero {p g : Nat} (h1 : 1 ≤ g) (hg : g ≤ 2 * p) : g % (2 * p + 1) ≠ 0 := by
  rw [Nat.mod_eq_of_lt (by omega)]
  omega

/-- The number of candidates that are primitive roots is the number of units of order `2p`, and the
units of a field are cyclic. -/
theorem card_isSafePrimeRoot {p : Nat} (hn : (2 * p + 1).Prime) :
    ((Finset.Icc 1 (2 * p)).filter fun g => IsSafePrimeRoot p g).card = (2 * p).totient := by
  have := Fact.mk hn
  have hcard : Fintype.card (ZMod (2 * p + 1))ˣ = 2 * p := ZMod.card_units _
  rw [← IsCyclic.card_orderOf_eq_totient (α := (ZMod (2 * p + 1))ˣ) hcard.symm.dvd]
  symm
  refine Finset.card_nbij (fun u => (u : ZMod (2 * p + 1)).val) ?maps ?inj ?surj
  case maps =>
    intro u hu
    have hlt := (u : ZMod (2 * p + 1)).val_lt
    have hpos : (u : ZMod (2 * p + 1)).val ≠ 0 := mt (ZMod.val_eq_zero _).1 u.ne_zero
    have horder : orderOf u = 2 * p := by simpa using hu
    have hroot : IsSafePrimeRoot p (u : ZMod (2 * p + 1)).val := by
      rw [IsSafePrimeRoot, ZMod.natCast_zmod_val, orderOf_units, horder]
    simp only [Finset.coe_filter, Finset.mem_Icc]
    exact ⟨by omega, hroot⟩
  case inj => exact fun u _ v _ h => Units.ext (ZMod.val_injective _ h)
  case surj =>
    intro g hg
    obtain ⟨⟨h1, h2⟩, horder⟩ : (1 ≤ g ∧ g ≤ 2 * p) ∧ IsSafePrimeRoot p g := by simpa using hg
    have hne : (g : ZMod (2 * p + 1)) ≠ 0 := fun h =>
      candidate_mod_ne_zero h1 h2 (Nat.mod_eq_zero_of_dvd ((ZMod.natCast_eq_zero_iff g _).1 h))
    refine ⟨Units.mk0 _ hne, ?_, ZMod.val_cast_of_lt (by omega)⟩
    simpa [← orderOf_units, IsSafePrimeRoot] using horder

/-- `φ(2p)` is `p - 1` for an odd prime `p`, and 2 for `p = 2` (R156). -/
theorem totient_two_mul_prime {p : Nat} (hp : p.Prime) :
    (2 * p).totient = if p = 2 then 2 else p - 1 := by
  split_ifs with h
  · subst h
    decide
  · have hcoprime : Nat.Coprime 2 p := (Nat.coprime_primes Nat.prime_two hp).2 (Ne.symm h)
    rw [Nat.totient_mul hcoprime, Nat.totient_two, one_mul, Nat.totient_prime hp]

/-- A second load of the same values changes nothing. -/
@[simp] theorem State.load_load (s : State) (o : OrderLoad) : (s.load o).load o = s.load o := by
  have hdiv : ((s.load o).load o).div = (s.load o).div := by
    rw [State.load_div_eq, State.load_div_eq]
    rfl
  exact congrArg (fun d => { s.load o with div := d }) hdiv

/-- With `g` in OPA, ISPRIMROOT compares the multiplicative order of `g` with the loaded totient `2p`,
so it decides whether `g` is a primitive root (R135, R137). -/
theorem isprimrootRule_candidate {p : Nat} (hp : p.Prime) (hn : (2 * p + 1).Prime)
    (hlt : p < 2 ^ 31) (u : State) (w : Word) {g : Nat} (h1 : 1 ≤ g) (hg : g ≤ 2 * p) :
    isprimrootRule (((u.load (orderLoad p)).writeReg .opa (u32 g)).capture w) =
      .complete (if IsSafePrimeRoot p g then 1#32 else 0#32) := by
  have hopa : (u32 g).toNat = g := u32_toNat (by omega)
  have hne : (u.writeReg .opa (u32 g)).opa.toNat % (2 * p + 1) ≠ 0 := by
    simpa only [State.writeReg, hopa] using candidate_mod_ne_zero h1 hg
  have horder := order_capture_load (u.writeReg .opa (u32 g)) w hp hn hlt hne
  have hm : (orderLoad p).opm ≠ 0#32 := fun h => by simpa [h] using orderLoad_opm_toNat hlt
  have ht : (orderLoad p).opt.toNat = 2 * p := by
    rw [orderLoad_eq]
    exact u32_toNat (by omega)
  change isprimrootRule (((u.writeReg .opa (u32 g)).load (orderLoad p)).capture w) = _
  rw [isprimrootRule_eq, orderEnd_complete hm (orderLoad_divcnt_le p), horder]
  simp [State.capture, State.writeReg, hopa, ht, ofBool]

namespace Driver

/-! ### The search on one block -/

/-- The block after `WR OPA, v`. -/
def withOpa (v : Word) (s : State) : State := (s.writeReg .opa v).answer (some .done)

/-- The block is IDLE out of reset, and holds what SAFEPRIME loads for `p`. -/
structure ReadyFor (p : Nat) (s : State) : Prop where
  released : s.inReset = false
  idle : s.engine = .idle
  loaded : s.load (orderLoad p) = s

/-- A call of SAFEPRIME that succeeds leaves the block ready. -/
theorem readyFor_load {p : Nat} {s : State} (hr : s.inReset = false) (v : Word) (r : Option Reply) :
    ReadyFor p ((s.conclude (.completeLoading v (orderLoad p))).answer r) where
  released := hr
  idle := rfl
  loaded := congrArg (fun t : State => (t.complete v).answer r) (s.load_load (orderLoad p))

/-- A call that completes without loads, with whatever is in OPA, leaves the block ready. -/
theorem ReadyFor.complete {p : Nat} {s : State} (h : ReadyFor p s) (i : Instr) (a v : Word)
    (r : Option Reply) :
    ReadyFor p (((accepted i (withOpa a s)).conclude (.complete v)).answer r) where
  released := h.released
  idle := rfl
  loaded := congrArg (fun t => ((accepted i (withOpa a t)).complete v).answer r) h.loaded

/-- One call on an IDLE block out of reset, by the rule of its command (R81). -/
theorem call_of_rule (base : Nat) (i : Instr) {s : State} (hr : s.inReset = false)
    (hidle : s.engine = .idle) {o : CommandOutcome}
    (hrule : ruleOf s i (s.capture (encode i)) = o) :
    call base i s = .next
      ⟨((accepted i s).conclude o).answer (some (.data o.value)), o.value, o.code⟩ := by
  rw [call_eq base i hr hidle, afterCall, hrule, State.conclude_result, State.conclude_errcode]

/-- `WR OPA, v` and then a call on an IDLE block out of reset: it goes on with what the rule of the
command leaves and returns. -/
theorem opa_then_call (base : Nat) (v : Word) (i : Instr) {s : State} (hr : s.inReset = false)
    (hidle : s.engine = .idle) {o : CommandOutcome}
    (hrule : ruleOf (withOpa v s) i ((withOpa v s).capture (encode i)) = o)
    {α : Type} (k : Returned → Host.Outcome α Fault Refusal) :
    andThen (now base (writeTo base .opa v) s) (fun s1 => andThen (call base i s1) k) =
      k ⟨((accepted i (withOpa v s)).conclude o).answer (some (.data o.value)), o.value, o.code⟩ := by
  rw [now_writeTo base hr, andThen_next]
  exact congrArg (andThen · k) (call_of_rule base i (s := withOpa v s) hr hidle hrule)

section SafePrimeCall
variable (base : Nat) (p : Word) {s : State} (hr : s.inReset = false) (hidle : s.engine = .idle)
  (goOn : Returned → Host.Outcome Search Fault Refusal)
include hr hidle

/-- A search fails where SAFEPRIME raises an error that the host reads as NotPrimeError (R155, R217). -/
theorem withSafePrime_raise {e : CommandError} {info : Word}
    (hrule : safeprimeRule ((withOpa p s).capture (encode .safeprime)) = .raise e info)
    (hend : callEnd e.code = .notPrimeError) :
    ∃ t, withSafePrime base p s goOn = .next ⟨t, none⟩ :=
  ⟨_, (opa_then_call base p .safeprime hr hidle hrule _).trans (if_pos hend)⟩

/-- A search fails unless both numbers are primes that fit: RANGE is a NotPrimeError too (R217). -/
theorem withSafePrime_notPrime
    (h : ¬ (p.toNat.Prime ∧ (2 * p.toNat + 1).Prime ∧ p.toNat < 2 ^ 31)) :
    ∃ t, withSafePrime base p s goOn = .next ⟨t, none⟩ := by
  by_cases hlt : p.toNat < 2 ^ 31
  · have htrial : ¬ (trialPrime (2 * p.toNat + 1) ∧ trialPrime p.toNat) := by
      rw [trialPrime_iff_prime, trialPrime_iff_prime]
      exact fun ⟨hn, hp⟩ => h ⟨hp, hn, hlt⟩
    exact withSafePrime_raise base p hr hidle goOn (safeprimeRule_notPrime hlt htrial) rfl
  · exact withSafePrime_raise base p hr hidle goOn (safeprimeRule_range (Nat.not_lt.1 hlt)) rfl

/-- A search goes on with what SAFEPRIME returned and loaded for primes that fit (R155). -/
theorem withSafePrime_primes (hp : p.toNat.Prime) (hn : (2 * p.toNat + 1).Prime)
    (hlt : p.toNat < 2 ^ 31) : ∃ t, ReadyFor p.toNat t ∧
      withSafePrime base p s goOn = goOn ⟨t, u32 (2 * p.toNat + 1), 0#4⟩ := by
  have hrule := safeprimeRule_loads (q := (withOpa p s).capture (encode .safeprime)) hlt
    ((trialPrime_iff_prime _).2 hn) ((trialPrime_iff_prime _).2 hp)
  have hready := readyFor_load (p := p.toNat) (s := accepted .safeprime (withOpa p s)) hr
    (u32 (2 * p.toNat + 1)) (some (.data (u32 (2 * p.toNat + 1))))
  have hend : callEnd 0#4 ≠ .notPrimeError := by decide
  exact ⟨_, hready, (opa_then_call base p .safeprime hr hidle hrule _).trans (if_neg hend)⟩

end SafePrimeCall

/-! ### The candidates -/

/-- The roots among `g`, `g + 1`, …, `left` of them, in ascending order. -/
noncomputable def rootsFrom (p g left : Nat) : List Nat :=
  (List.range' g left).filter fun k => decide (IsSafePrimeRoot p k)

theorem rootsFrom_succ_of_root {p g : Nat} (h : IsSafePrimeRoot p g) (left : Nat) :
    rootsFrom p g (left + 1) = [g] ++ rootsFrom p (g + 1) left :=
  List.filter_cons_of_pos (decide_eq_true h)

theorem rootsFrom_succ_of_not_root {p g : Nat} (h : ¬ IsSafePrimeRoot p g) (left : Nat) :
    rootsFrom p g (left + 1) = rootsFrom p (g + 1) left :=
  List.filter_cons_of_neg (by simpa using h)

/-- The roots a search keeps: all for `limit = 0`, else the first `limit` (R155). -/
def upTo (limit : Nat) (roots : List Nat) : List Nat :=
  if limit = 0 then roots else roots.take limit

/-- A list that has not reached the limit is kept whole. -/
theorem upTo_of_room {limit : Nat} {out : List Nat} (h : limit = 0 ∨ out.length < limit) :
    upTo limit out = out := by
  rw [upTo]
  split_ifs with h0
  · rfl
  · exact List.take_of_length_le (h.resolve_left h0).le

/-- Where a list has reached the limit, what would follow is not kept. -/
theorem upTo_append_of_full {limit : Nat} {out : List Nat} (h0 : 0 < limit)
    (hfull : out.length = limit) (rest : List Nat) : upTo limit (out ++ rest) = out := by
  rw [upTo, if_neg h0.ne', List.take_left' hfull]

section Candidates
variable (base limit : Nat) {p : Nat} (hp : p.Prime) (hn : (2 * p + 1).Prime) (hlt : p < 2 ^ 31)
include hp hn hlt

/-- One candidate on a ready block (R155): the block is ready after it, and the search stops or goes on
as `g` is a root or not. -/
theorem candidates_succ (left : Nat) {g : Nat} (h1 : 1 ≤ g) (hg : g ≤ 2 * p) (out : List Nat)
    {s : State} (h : ReadyFor p s) :
    ∃ t, ReadyFor p t ∧ candidates base limit (left + 1) g out s =
      if IsSafePrimeRoot p g then
        if 0 < limit ∧ (out ++ [g]).length = limit then .next ⟨t, some (out ++ [g])⟩
        else candidates base limit left (g + 1) (out ++ [g]) t
      else candidates base limit left (g + 1) out t := by
  have hrule := isprimrootRule_candidate hp hn hlt s (encode .isprimroot) h1 hg
  rw [h.loaded] at hrule
  have hresult : (if IsSafePrimeRoot p g then 1#32 else 0#32) = 1#32 ↔ IsSafePrimeRoot p g := by
    simp
  have hready := h.complete .isprimroot (u32 g) (if IsSafePrimeRoot p g then 1#32 else 0#32)
    (some (.data (if IsSafePrimeRoot p g then 1#32 else 0#32)))
  refine ⟨_, hready, (opa_then_call base (u32 g) .isprimroot h.released h.idle hrule _).trans ?_⟩
  simp only [CommandOutcome.value, hresult]

/-- The candidates on a ready block (R155): what is found is, after `out`, the roots in the range in
ascending order, up to the limit. -/
theorem candidates_eq (left : Nat) : ∀ (g : Nat) (out : List Nat) (s : State), 1 ≤ g →
    g + left ≤ 2 * p + 1 → (limit = 0 ∨ out.length < limit) → ReadyFor p s →
    ∃ t, candidates base limit left g out s =
      .next ⟨t, some (upTo limit (out ++ rootsFrom p g left))⟩ := by
  induction left with
  | zero =>
    intro g out s _ _ hroom _
    exact ⟨s, by rw [rootsFrom, List.range'_zero, List.filter_nil, List.append_nil,
      upTo_of_room hroom, candidates]⟩
  | succ left ih =>
    intro g out s h1 hle hroom h
    obtain ⟨t, ht, hstep⟩ := candidates_succ base limit hp hn hlt left h1 (by omega) out h
    rw [hstep]
    split_ifs with hroot hfull
    · obtain ⟨h0, hlen⟩ := hfull
      rw [rootsFrom_succ_of_root hroot, ← List.append_assoc, upTo_append_of_full h0 hlen]
      exact ⟨t, rfl⟩
    · rw [rootsFrom_succ_of_root hroot, ← List.append_assoc]
      refine ih (g + 1) (out ++ [g]) t (by omega) (by omega) ?_ ht
      rw [List.length_append, List.length_singleton] at hfull ⊢
      omega
    · rw [rootsFrom_succ_of_not_root hroot]
      exact ih (g + 1) out t (by omega) (by omega) hroom ht

end Candidates

end Driver

end Sys2Proof.Machine

/-! PROOFS. The statements about SAFEPRIME and the search for primitive roots. -/

namespace Sys2Proof.Proofs

open Sys2Proof Sys2Proof.Machine

/-- Settles O28: RANGE is checked first, then the mask of the two trial divisions says which end it
is. -/
theorem safeprimeDerivesChecksAndLoads : Obligations.SafeprimeDerivesChecksAndLoads := by
  refine ⟨decode_encode .safeprime, fun s q hq => ⟨fun hrange => ?_, fun hlt hnot => ?_,
    fun hlt hn hp => ?_⟩⟩
  · exact exec_of_raise .safeprime hq (safeprimeRule_range hrange)
  · obtain ⟨hfour, hsafe, hgermain⟩ := Snapshot.primeMask_bits hlt
    exact ⟨_, hfour, hsafe, hgermain,
      exec_of_raise .safeprime hq (safeprimeRule_notPrime hlt hnot)⟩
  · have hexec := exec_of_completeLoading .safeprime hq (safeprimeRule_loads hlt hn hp)
    rw [orderLoad_eq] at hexec
    refine ⟨_, _, _, _, _, u32_toNat (by omega), u32_toNat (by omega), fun htwo => ?_,
      fun htwo => ?_, hexec⟩
    · have hp2 : q.a.toNat = 2 := congrArg BitVec.toNat htwo
      simp [hp2]
    · have hp2 : q.a.toNat ≠ 2 := fun h => htwo (BitVec.eq_of_toNat_eq h)
      simp [hp2, u32]

/-- Settles O38: ISPRIMROOT accepts the candidates of order `2p`, and the unit group of the field has
`φ(2p)` elements of that order. -/
theorem numberOfPrimitiveRoots : Obligations.NumberOfPrimitiveRoots := by
  intro u p hp hn hlt
  rw [← totient_two_mul_prime hp, ← card_isSafePrimeRoot hn]
  refine congrArg Finset.card (Finset.filter_congr fun g hg => ?_)
  obtain ⟨h1, h2⟩ := Finset.mem_Icc.1 hg
  have hrule := isprimrootRule_candidate hp hn hlt u 5#32 h1 h2
  rw [State.writeReg] at hrule
  rw [hrule]
  simp

/-- Settles O59: SAFEPRIME fails unless both numbers are primes that fit, and otherwise loads the
registers on which ISPRIMROOT finds the roots, candidate by candidate. -/
theorem primitiveRootSearchIsCorrect : Obligations.PrimitiveRootSearchIsCorrect := by
  intro base p limit s hr hidle
  by_cases h : p.toNat.Prime ∧ (2 * p.toNat + 1).Prime ∧ p.toNat < 2 ^ 31
  · obtain ⟨hp, hn, hlt⟩ := h
    obtain ⟨t, hready, hload⟩ := Driver.withSafePrime_primes base p hr hidle
      (fun r => Driver.candidates base limit (r.value.toNat - 1) 1 [] r.block) hp hn hlt
    have hcount : (u32 (2 * p.toNat + 1)).toNat - 1 = 2 * p.toNat := by
      rw [u32_toNat (by omega), Nat.add_sub_cancel]
    obtain ⟨t', hroots⟩ := Driver.candidates_eq base limit hp hn hlt (2 * p.toNat) 1 [] t le_rfl
      (by omega) (Nat.eq_zero_or_pos limit) hready
    rw [hcount, hroots] at hload
    exact ⟨_, hload, fun hnot => absurd ⟨hp, hn, hlt⟩ hnot, fun _ _ _ => rfl⟩
  · obtain ⟨t, ht⟩ := Driver.withSafePrime_notPrime base p hr hidle _ h
    exact ⟨_, ht, fun _ => rfl, fun hp hn hlt => absurd ⟨hp, hn, hlt⟩ h⟩

end Sys2Proof.Proofs

/-! SUPPORT. The offsets that no register has, the bits of the STATUS word, what a CMD write does in
either phase, and the engine's turn as a step. -/

namespace Sys2Proof.Machine

/-! ### The register map and the STATUS word -/

/-- An offset that is no register's reads 0 (R53, R164). -/
theorem State.readOffset_of_not_offset (s : State) {off : Nat} (h : ∀ r : Reg, r.offset ≠ off) :
    s.readOffset off = 0#32 := by
  cases hreg : regAt off with
  | none => simp [State.readOffset, hreg]
  | some r => exact absurd (offset_of_regAt hreg) (h r)

/-- Where a flag placed in a word stands (R32). -/
theorem place_ofBool_getLsbD (b : Bool) {lo : Nat} (hlo : lo < 32) (k : Nat) :
    (place lo (BitVec.ofBool b)).getLsbD k = (decide (k = lo) && b) := by
  rw [place_getLsbD]
  rcases lt_trichotomy k lo with h | rfl | h
  · simp [h.ne, h.not_ge]
  · simp [hlo]
  · simp [h.ne', show k - lo ≠ 0 by omega]

/-- Which field each bit of the STATUS word belongs to (R32). -/
theorem State.statusWord_getLsbD (s : State) (k : Nat) :
    s.statusWord.getLsbD k =
      if k = 0 then s.busy else if k = 1 then s.done else if k = 2 then s.err
      else if k = 3 then s.ovr else if k < 8 then s.errcode.getLsbD (k - 4)
      else s.lastop.getLsbD (k - 8) := by
  simp only [State.statusWord, BitVec.getLsbD_or, place_ofBool_getLsbD _ (lo := 0) (by decide),
    place_ofBool_getLsbD _ (lo := 1) (by decide), place_ofBool_getLsbD _ (lo := 2) (by decide),
    place_ofBool_getLsbD _ (lo := 3) (by decide), place_getLsbD]
  split_ifs with h0 h1 h2 h3 h8
  · simp [h0]
  · simp [h1]
  · simp [h2]
  · simp [h3]
  · simp [h0, h1, h2, h3, show ¬ 8 ≤ k by omega, show 4 ≤ k by omega, show k < 32 by omega]
  · have hcode : s.errcode.getLsbD (k - 4) = false := BitVec.getLsbD_of_ge _ _ (by omega)
    by_cases h32 : k < 32
    · simp [h0, h1, h2, h3, hcode, h32, show 8 ≤ k by omega]
    · simp [h0, h1, h2, h3, h32, BitVec.getLsbD_of_ge s.lastop (k - 8) (by omega)]

/-- LASTOP is bits 15:8 of STATUS (R32). -/
theorem State.statusWord_lastop (s : State) : s.statusWord.extractLsb' 8 8 = s.lastop := by
  apply BitVec.eq_of_getLsbD_eq
  intro k hk
  simp [State.statusWord_getLsbD, hk, show 8 + k ≠ 1 by omega, show 8 + k ≠ 2 by omega,
    show 8 + k ≠ 3 by omega]

/-- Bits 31:16 of STATUS are 0 (R32). -/
theorem State.statusWord_reserved (s : State) : s.statusWord.extractLsb' 16 16 = 0#16 := by
  apply BitVec.eq_of_toNat_eq
  rw [BitVec.extractLsb'_toNat, Nat.shiftRight_eq_div_pow, Nat.div_eq_of_lt s.statusWord_toNat_lt]
  rfl

/-! ### CMD writes -/

/-- A CMD write to an IDLE engine accepts the word (R160). -/
theorem State.writeReg_cmd_idle {s : State} (h : s.engine = .idle) (w : Word) :
    s.writeReg .cmd w = s.accept w := by
  simp only [State.writeReg, State.writeCmd, h]

/-- A CMD write to a BUSY engine is dropped (R161). -/
theorem State.writeReg_cmd_busy {s : State} {q : Snapshot} (h : s.engine = .busy q) (w : Word) :
    s.writeReg .cmd w = s.flagsDropped := by
  simp only [State.writeReg, State.writeCmd, h]

/-! ### The engine's turn -/

/-- With no event left, a step is the engine's turn (R59, log entry 1). -/
theorem step_nil {s : State} (he : s.events = []) : step s = engineTurn s := by
  simp only [step, stepAt, he]

/-- Out of reset the engine's turn raises ILLEGAL_CMD for an illegal word (R77, R162). -/
theorem engineTurn_illegal {s : State} {q : Snapshot} {why : IllegalCause} (hr : s.inReset = false)
    (hq : s.engine = .busy q) (hw : decodeFields q.cmd = .illegal why) :
    engineTurn s = .next (s.raise .illegalCmd 0#32) := by
  rw [engineTurn_busy hr hq, endOf_illegal hw, State.conclude]

/-- The engine holds the whole word that `withFetchWord` is given (log entry 4). -/
theorem State.withFetchWord_engine (s : State) (w : Word) :
    (s.withFetchWord 32 w.toNat).engine = .busy (s.capture w) := by
  simp [State.withFetchWord, Nat.mod_eq_of_lt w.isLt]

end Sys2Proof.Machine

/-! PROOFS. The statements about register access, acceptance, and the dispatch of a command. -/

namespace Sys2Proof.Proofs

open Sys2Proof Sys2Proof.Machine

/-! ### Register reads and writes -/

/-- Settles O9: a register's offset reads the register, and no register has any other offset. -/
theorem registerReadReturnsTheTableValue : Obligations.RegisterReadReturnsTheTableValue := by
  refine ⟨fun s off rest hr ho ha he => step_read hr ho ha he, fun s => ?_⟩
  have reads : ∀ r : Reg, s.readOffset r.offset = s.readReg r := s.readOffset_reg
  refine ⟨reads .id, reads .version, (reads .ctrl).trans ?_, reads .status, reads .cmd,
    reads .result, (congrArg BitVec.toNat (reads .divcnt)).trans ?_, reads .opa, reads .opb,
    reads .opm, reads .opt, fun i => reads (.div i), fun off htable hdiv => ?_⟩
  · cases hie : s.ie <;> simp [State.readReg, hie]
  · have := s.divcnt.isLt
    simp only [State.readReg, BitVec.truncate_eq_setWidth, BitVec.toNat_setWidth]
    omega
  · refine s.readOffset_of_not_offset fun r hoff => ?_
    cases r with
    | div i => exact hdiv i hoff.symm
    | _ => exact htable (by simp [← hoff, Reg.offset])

/-- Settles O10: each bit of STATUS is one field's, and the write is served by `flagsWritten`. -/
theorem statusFieldsAndStatusWrite : Obligations.StatusFieldsAndStatusWrite := by
  refine ⟨fun s => ?_, fun s v rest hr he => ?_⟩
  · have bit := s.statusWord_getLsbD
    exact ⟨bit 0, bit 1, bit 2, bit 3, s.statusWord_errcode, s.statusWord_lastop,
      s.statusWord_reserved⟩
  · rw [step_writeReg (reg := .status) hr he]
    simp only [State.writeReg, State.flagsWritten, Bool.and_eq_true, Bool.not_eq_true']
    rfl

/-- Settles O15: bit 1 of the written value decides between the reset of the block and IE. -/
theorem ctrlWriteSetsIeOrSoftResets : Obligations.CtrlWriteSetsIeOrSoftResets := by
  intro s v rest hr he
  rw [step_writeReg (reg := .ctrl) hr he, State.writeReg, State.writeCtrl]
  split_ifs
  · simp only [State.resetBlock, State.answer, State.withEvents_inReset, hr,
      State.withEvents_events]
    rfl
  · rfl

/-! ### CMD writes -/

/-- Settles O16: the write is served by acceptance, which clears DONE and with it irq. -/
theorem cmdWriteWhileIdleIsAccepted : Obligations.CmdWriteWhileIdleIsAccepted := by
  intro s w rest hr hidle he
  have hstep := step_writeReg (reg := .cmd) hr he
  rw [State.writeReg_cmd_idle (s := s.withEvents rest) hidle] at hstep
  exact ⟨_, hstep, rfl, rfl⟩

/-- Settles O17: while the engine holds a command, the write is served by setting OVR. -/
theorem cmdWriteWhileBusyIsDropped : Obligations.CmdWriteWhileBusyIsDropped := by
  intro s q w rest hr hq he
  rw [step_writeReg (reg := .cmd) hr he, State.writeReg_cmd_busy (s := s.withEvents rest) hq]
  rfl

/-! ### The dispatch -/

/-- Settles O20: at its turn the engine runs the command that it holds, and `withFetchWord` gives it
the word with that turn first. -/
theorem stepRunsTheDecodedCommand : Obligations.StepRunsTheDecodedCommand := by
  refine ⟨fun s q i hr hq hi => ⟨fun rest he => ?_, fun he => ?_⟩,
    fun s q why hr hq hw => ⟨fun rest he => ?_, fun he => ?_⟩, fun s w i hi => ?_⟩
  · rw [step_cons he]
    exact engineTurn_legal (s := s.withEvents rest) hr hq hi
  · rw [step_nil he, engineTurn_legal hr hq hi]
  · rw [step_cons he]
    exact engineTurn_illegal (s := s.withEvents rest) hr hq hw
  · rw [step_nil he, engineTurn_illegal hr hq hw]
  · rw [step_cons (e := .engine) (rest := s.events) rfl]
    exact engineTurn_legal (s := (s.withFetchWord 32 w.toNat).withEvents s.events) rfl
      (s.withFetchWord_engine w) hi

/-- Settles O21: NOP completes with the RESULT it finds. -/
theorem nopKeepsResultAndClearsTheError : Obligations.NopKeepsResultAndClearsTheError :=
  ⟨decode_encode .nop, fun _ _ hq => exec_of_complete .nop hq rfl⟩

end Sys2Proof.Proofs

/-! SUPPORT. The error that each command ends with, what moves the interrupt output, and the search
shared among several units. -/

namespace Sys2Proof.Machine

/-! ### Which error a command ends with -/

/-- How MULMOD and POWMOD end when their value is `v` (R100, R106). -/
def modulusEnd (q : Snapshot) (v : Word) : CommandOutcome :=
  if q.m = 0#32 then .raise .invalidModulus 0#32 else .complete v

theorem mulmodRule_eq (q : Snapshot) :
    mulmodRule q = modulusEnd q (u32 (Numeric.mulmod q.a.toNat q.b.toNat q.m.toNat)) := rfl

theorem powmodRule_eq (q : Snapshot) :
    powmodRule q = modulusEnd q (u32 (Numeric.powmod q.a.toNat q.b.toNat q.m.toNat)) := rfl

theorem modulusEnd_code (q : Snapshot) (v : Word) :
    (modulusEnd q v).code = if q.m = 0#32 then 1#4 else 0#4 := by
  rw [modulusEnd]
  split_ifs <;> rfl

/-- The modulus ranks before the divisor count (R204). -/
theorem orderEnd_code (q : Snapshot) (v : Word) :
    (orderEnd q v).code =
      if q.m = 0#32 then 1#4 else if 8 < q.divcnt.toNat then 4#4 else 0#4 := by
  split_ifs with hm hcnt
  · rw [orderEnd_modulus_zero hm]
    rfl
  · rw [orderEnd_badDivcnt hm hcnt]
    rfl
  · rw [orderEnd_complete hm (Nat.not_lt.1 hcnt)]
    rfl

/-- The value that a completion with the error `e` may leave in RESULT: 0, or for NOT_PRIME a mask that
is not 0 (R203). -/
def allowedInfo (e : CommandError) (info : Word) : Prop :=
  if e = .notPrime then info = 1#32 ∨ info = 2#32 ∨ info = 3#32 else info = 0#32

theorem modulusEnd_raise {q : Snapshot} {v : Word} {e : CommandError} {info : Word}
    (h : modulusEnd q v = .raise e info) : allowedInfo e info := by
  rw [modulusEnd] at h
  split_ifs at h
  cases h
  rfl

theorem orderEnd_raise {q : Snapshot} {v : Word} {e : CommandError} {info : Word}
    (h : orderEnd q v = .raise e info) : allowedInfo e info := by
  rw [orderEnd] at h
  split_ifs at h
  all_goals
    cases h
    rfl

/-- A mask that reports a failure has bit 0, bit 1 or both set (R151). -/
theorem failMask_values : ∀ safe germain : Bool, failMask safe germain ≠ 0#32 →
    failMask safe germain = 1#32 ∨ failMask safe germain = 2#32 ∨ failMask safe germain = 3#32 := by
  decide

theorem safeprimeRule_raise {q : Snapshot} {e : CommandError} {info : Word}
    (h : safeprimeRule q = .raise e info) : allowedInfo e info := by
  simp only [safeprimeRule] at h
  split_ifs at h with hrange hmask
  · cases h
    rfl
  · cases h
    exact failMask_values _ _ hmask

/-- A command that raises an error leaves what the error allows (R203). -/
theorem ruleOf_raise {s : State} {i : Instr} {q : Snapshot} {e : CommandError} {info : Word}
    (h : ruleOf s i q = .raise e info) : allowedInfo e info := by
  cases i with
  | nop | isprime => cases h
  | isprimeS => cases (isprimeSRule_eq q).symm.trans h
  | mulmod | powmod => exact modulusEnd_raise h
  | mulord | isprimroot => exact orderEnd_raise h
  | safeprime => exact safeprimeRule_raise h

/-- So does a word of either kind (R77). -/
theorem endOf_raise {s : State} {q : Snapshot} {e : CommandError} {info : Word}
    (h : endOf s q = .raise e info) : allowedInfo e info := by
  cases hd : decodeFields q.cmd with
  | legal i => exact ruleOf_raise ((endOf_legal hd s).symm.trans h)
  | illegal why =>
    cases (endOf_illegal hd s).symm.trans h
    rfl

/-- NOT_PRIME alone has code 2 (R201). -/
theorem CommandError.code_eq_two_iff (e : CommandError) : e.code = 2#4 ↔ e = .notPrime := by
  cases e <;> decide

/-- No error has code 0, which stands for none (R201). -/
theorem CommandError.code_ne_zero (e : CommandError) : e.code ≠ 0#4 := by
  cases e <;> decide

/-- An error code is left by an error only. -/
theorem CommandOutcome.exists_raise {o : CommandOutcome} (h : o.code ≠ 0#4) :
    ∃ e info, o = .raise e info := by
  cases o with
  | complete | completeLoading => exact absurd rfl h
  | raise e info => exact ⟨e, info, rfl⟩

/-- The error entry writes RESULT, the flags and the phase only (R200, R203). -/
theorem State.raise_eq (s : State) (e : CommandError) (info : Word) :
    s.raise e info = { s with
      result := info, err := true, errcode := e.code, busy := false, done := true
      engine := .idle } := by
  have herr : (e.code != 0#4) = true := by simpa using e.code_ne_zero
  simp only [State.raise, State.finish, State.flagsCompleted, herr]

/-! ### What moves the interrupt output -/

theorem State.irq_eq_true_iff (s : State) : s.irq = true ↔ s.done = true ∧ s.ie = true :=
  Bool.and_eq_true_iff

theorem State.irq_eq_false_iff (s : State) : s.irq = false ↔ (s.done = true → s.ie = false) := by
  rw [State.irq, Bool.and_eq_false_imp]

/-- A CTRL write that is no soft reset writes IE only (R166). -/
theorem State.writeReg_ctrl_ie (s : State) {v : Word} (hv : v.getLsbD 1 = false) :
    s.writeReg .ctrl v = { s with ie := v.getLsbD 0 } := by
  rw [State.writeReg, State.writeCtrl, hv]
  rfl

/-- A step keeps IE, unless it is a CTRL write, which leaves DONE, or a reset (R30, R166, R230). -/
theorem step_ie {s t : State} (h : step s = .next t) :
    t.ie = s.ie ∨
    (∃ v, servesWrite s 0x08 v ∧ v.getLsbD 1 = false ∧ t.ie = v.getLsbD 0 ∧ t.done = s.done) ∨
    (resets s ∧ t.ie = false) := by
  rcases step_next h with ⟨es, r, rfl⟩ | ⟨reg, v, es, hw, hsoft, rfl⟩ |
    ⟨-, q, es, -, ⟨i, -, rfl⟩ | ⟨why, -, rfl⟩⟩ | ⟨hr, es, r, b, rfl⟩
  · exact .inl rfl
  · rcases (s.withEvents es).writeReg_cases reg v hsoft with
      ⟨-, -, ht⟩ | ⟨-, -, ht⟩ | ⟨-, ht⟩ | ⟨rfl, hv, ht⟩ | ⟨u, hu, ht⟩
    · rw [ht]
      exact .inl rfl
    · rw [ht]
      exact .inl rfl
    · rw [ht]
      exact .inl rfl
    · rw [ht]
      exact .inr (.inl ⟨v, hw, hv, rfl, rfl⟩)
    · rw [hu, ht]
      exact .inl rfl
  · exact .inl (State.conclude_ie _ _)
  · exact .inl rfl
  · exact .inr (.inr ⟨hr, rfl⟩)

/-- Only a completion sets DONE (R34). -/
theorem completes_of_done_rises {s t : State} (h : step s = .next t) (h0 : s.done = false)
    (h1 : t.done = true) : completes s := by
  cases controlStep_of_step h with
  | complete q es hc hq => exact hc
  | accept | reset => cases h1
  | drop | statusWrite => simp [h0] at h1
  | other same => simp [same.done, h0] at h1

/-- Only a STATUS write, an acceptance and a reset clear DONE (R34). -/
theorem cause_of_done_falls {s t : State} (h : step s = .next t) (h1 : s.done = true)
    (h0 : t.done = false) :
    (∃ v, servesWrite s 0x0C v ∧ v.getLsbD 1 = true) ∨ (∃ w, accepts s w) ∨ resets s := by
  cases controlStep_of_step h with
  | statusWrite v es hw =>
    have ⟨hv, _⟩ : v[1] = true ∧ s.busy = false := by simpa [h1] using h0
    exact .inl ⟨v, hw, hv⟩
  | accept w es hacc => exact .inr (.inl ⟨w, hacc⟩)
  | reset es r b hrst => exact .inr (.inr hrst)
  | drop | complete => simp [h1] at h0
  | other same => simp [same.done, h1] at h0

/-! ### The step of a unit -/

/-- A unit that takes its step is replaced by what its own step gives; where there is no such unit, the
system stays (R223). -/
theorem System.stepUnit_next {sys sys' : System} {k : Nat} (h : sys.stepUnit k = .next sys') :
    (sys[k]? = none ∧ sys' = sys) ∨
    ∃ u t, sys[k]? = some u ∧ stepAt u.base u.block = .next t ∧
      sys' = sys.set k { u with block := t } := by
  unfold System.stepUnit at h
  split at h
  · rename_i hk
    injection h with h
    exact .inl ⟨hk, h.symm⟩
  · rename_i u hk
    split at h
    · rename_i t ht
      injection h with h
      exact .inr ⟨u, t, hk, ht, h.symm⟩
    · contradiction
    · contradiction

namespace Driver

/-! ### The search shared among several units -/

/-- The roots of two ranges, one after the other, are those of both together. -/
theorem rootsFrom_append (p g m n : Nat) :
    rootsFrom p g m ++ rootsFrom p (g + m) n = rootsFrom p g (m + n) := by
  rw [rootsFrom, rootsFrom, ← List.filter_append, List.range'_append_1, rootsFrom]

/-- How many candidates the units try together. -/
def totalCount (shares : List Share) : Nat := (shares.map fun x => x.count).sum

/-- Every unit is IDLE and out of reset. -/
def AllIdle (shares : List Share) : Prop :=
  ∀ x ∈ shares, x.block.inReset = false ∧ x.block.engine = .idle

/-- A parallel search goes on from its first unit. -/
theorem parallelSearch_cons {p : Word} {first : Nat} {x : Share} {xs : List Share} {r : Search}
    {rs : List Search}
    (hx : (withSafePrime x.base p x.block fun c =>
      candidates x.base 0 x.count first [] c.block) = .next r)
    (hxs : parallelSearch p (first + x.count) xs = .next rs) :
    parallelSearch p first (x :: xs) = .next (r :: rs) := by
  rw [parallelSearch, hx, andThen_next, hxs, andThen_next]

/-- Each unit fails where SAFEPRIME does, so a search with units fails (R155, R223). -/
theorem parallelSearch_notPrime {p : Word}
    (h : ¬ (p.toNat.Prime ∧ (2 * p.toNat + 1).Prime ∧ p.toNat < 2 ^ 31)) (shares : List Share) :
    ∀ first, AllIdle shares → ∃ rs, parallelSearch p first shares = .next rs ∧
      (shares ≠ [] → concatenated rs = none) := by
  induction shares with
  | nil => exact fun _ _ => ⟨[], rfl, absurd rfl⟩
  | cons x xs ih =>
    intro first hidle
    obtain ⟨⟨hr, hx⟩, hrest⟩ := List.forall_mem_cons.1 hidle
    obtain ⟨t, ht⟩ := withSafePrime_notPrime x.base p hr hx
      (fun c => candidates x.base 0 x.count first [] c.block) h
    obtain ⟨rs, hrs, -⟩ := ih (first + x.count) hrest
    exact ⟨_, parallelSearch_cons ht hrs, fun _ => rfl⟩

/-- With primes that fit, the concatenated results are the roots of the whole range: each unit finds
those of its own part (R155, R223). -/
theorem parallelSearch_primes {p : Word} (hp : p.toNat.Prime) (hn : (2 * p.toNat + 1).Prime)
    (hlt : p.toNat < 2 ^ 31) (shares : List Share) :
    ∀ first, 1 ≤ first → first + totalCount shares ≤ 2 * p.toNat + 1 → AllIdle shares →
      ∃ rs, parallelSearch p first shares = .next rs ∧
        concatenated rs = some (rootsFrom p.toNat first (totalCount shares)) := by
  induction shares with
  | nil => exact fun _ _ _ _ => ⟨[], rfl, rfl⟩
  | cons x xs ih =>
    intro first h1 hle hidle
    have htotal : totalCount (x :: xs) = x.count + totalCount xs := List.sum_cons
    rw [htotal] at hle ⊢
    obtain ⟨⟨hr, hx⟩, hrest⟩ := List.forall_mem_cons.1 hidle
    obtain ⟨t, hready, hload⟩ := withSafePrime_primes x.base p hr hx
      (fun c => candidates x.base 0 x.count first [] c.block) hp hn hlt
    obtain ⟨t', hroots⟩ := candidates_eq x.base 0 hp hn hlt x.count first [] t h1 (by omega)
      (.inl rfl) hready
    obtain ⟨rs, hrs, hconcat⟩ := ih (first + x.count) (by omega) (by omega) hrest
    refine ⟨_, parallelSearch_cons (hload.trans hroots) hrs, ?_⟩
    rw [← rootsFrom_append]
    simp only [concatenated, hconcat]
    rfl

end Driver

end Sys2Proof.Machine

/-! PROOFS. The statements about errors, the interrupt output, and several units. -/

namespace Sys2Proof.Proofs

open Sys2Proof Sys2Proof.Machine

/-! ### Errors -/

/-- Settles O29: ERRCODE is the code of the command's rule, and the checks of each rule stand in the
order of their rank. -/
theorem errorCodeIsTheHighestRankedCondition :
    Obligations.ErrorCodeIsTheHighestRankedCondition := by
  intro i s q hq
  refine ⟨_, exec_busy i hq, by simp, ?_⟩
  rw [State.conclude_errcode]
  cases i with
  | nop | isprime => rfl
  | isprimeS => exact congrArg CommandOutcome.code (isprimeSRule_eq q)
  | mulmod | powmod => exact modulusEnd_code q _
  | mulord | isprimroot => exact orderEnd_code q _
  | safeprime =>
    refine ⟨fun hrange => ?_, fun hlt => ⟨fun ⟨hn, hp⟩ => ?_, fun hnot => ?_⟩⟩
    · exact congrArg CommandOutcome.code (safeprimeRule_range hrange)
    · exact congrArg CommandOutcome.code (safeprimeRule_loads hlt hn hp)
    · exact congrArg CommandOutcome.code (safeprimeRule_notPrime hlt hnot)

/-- Settles O30: a command that leaves ERR 1 ended in the error entry, with a value that its error
allows. -/
theorem erroredCommandWritesOnlyResultAndStatus :
    Obligations.ErroredCommandWritesOnlyResultAndStatus := by
  rintro s t rest ⟨hr, hbusy, -⟩ he hstep herr
  obtain ⟨q, hq⟩ := (Engine.isBusy_iff _).1 hbusy
  have hturn := (step_cons he).trans (engineTurn_busy (s := s.withEvents rest) hr hq)
  obtain rfl : _ = t := Host.Outcome.next.inj (hturn.symm.trans hstep)
  obtain ⟨e, info, hend⟩ := CommandOutcome.exists_raise
    (o := endOf (s.withEvents rest) q) (by simpa using herr)
  have hinfo := endOf_raise hend
  rw [hend, State.conclude, State.raise_eq]
  refine ⟨fun hcode => ?_, fun hcode => ?_, rfl⟩
  · rwa [allowedInfo, if_neg (mt e.code_eq_two_iff.2 hcode)] at hinfo
  · rwa [allowedInfo, if_pos (e.code_eq_two_iff.1 hcode)] at hinfo

/-! ### The interrupt output -/

/-- Settles O53: irq moves with DONE or with IE, and each has its own causes. -/
theorem interruptRisesAndFallsAsStated : Obligations.InterruptRisesAndFallsAsStated := by
  refine ⟨State.irq_eq_true_iff, fun s hc hie => ?_, fun s v hw hv => ?_, fun s t h h0 h1 => ?_,
    fun s t h h1 h0 => ?_⟩
  · obtain ⟨q, es, -, ht⟩ := step_of_completes hc
    exact ⟨_, ht, by simp [State.irq, hie]⟩
  · obtain ⟨es, ht⟩ := step_servesWrite (reg := .ctrl) hw
    rw [State.writeReg_ctrl_ie _ hv] at ht
    exact ⟨_, ht, rfl, rfl⟩
  · obtain ⟨hdone, hie⟩ := t.irq_eq_true_iff.1 h1
    rw [State.irq_eq_false_iff] at h0
    rcases step_ie h with hkeep | ⟨v, hw, hv, hbit, hsame⟩ | ⟨-, hclear⟩
    · have hie' : s.ie = true := hkeep ▸ hie
      have hdone' : s.done = false := by simpa [hie'] using h0
      exact .inl ⟨completes_of_done_rises h hdone' hdone, hie'⟩
    · exact .inr ⟨hsame ▸ hdone, v, hw, hv, hbit ▸ hie⟩
    · simp [hie] at hclear
  · obtain ⟨hdone, hie⟩ := s.irq_eq_true_iff.1 h1
    rw [State.irq_eq_false_iff] at h0
    rcases step_ie h with hkeep | ⟨v, hw, hv, hbit, hsame⟩ | ⟨hrst, -⟩
    · have hdone' : t.done = false := by simpa [hkeep.trans hie] using h0
      rcases cause_of_done_falls h hdone hdone' with hstatus | hacc | hrst
      · exact .inl hstatus
      · exact .inr (.inl hacc)
      · exact .inr (.inr (.inl hrst))
    · have hdone' : t.done = true := hsame.trans hdone
      exact .inr (.inr (.inr ⟨hdone', v, hw, hv, hbit.symm.trans (h0 hdone')⟩))
    · exact .inr (.inr (.inl hrst))

/-! ### Several units -/

/-- Settles O57: a unit's step writes its own place in the list. -/
theorem unitsShareNoState : Obligations.UnitsShareNoState := by
  intro sys sys' k h
  rcases System.stepUnit_next h with ⟨hnone, rfl⟩ | ⟨u, t, hk, ht, rfl⟩
  · exact ⟨rfl, fun _ _ => rfl, fun u hk => by simp [hnone] at hk⟩
  · have hlt : k < sys.length := (List.getElem?_eq_some_iff.1 hk).1
    refine ⟨List.length_set, fun j hj => List.getElem?_set_ne hj.symm, fun u' hk' => ?_⟩
    obtain rfl : u = u' := Option.some.inj (hk.symm.trans hk')
    exact ⟨t, ht, List.getElem?_set_self hlt⟩

/-- Settles O60: both searches fail together, and otherwise both find the roots from 1 to `2p`. -/
theorem parallelSearchEqualsTheSequential : Obligations.ParallelSearchEqualsTheSequential := by
  intro base p s shares hr hidle hne hall hsum
  obtain ⟨r, hseq, hfail, hroots⟩ := primitiveRootSearchIsCorrect base p 0 s hr hidle
  by_cases h : p.toNat.Prime ∧ (2 * p.toNat + 1).Prime ∧ p.toNat < 2 ^ 31
  · obtain ⟨hp, hn, hlt⟩ := h
    have htotal : Driver.totalCount shares = 2 * p.toNat := hsum
    obtain ⟨rs, hrs, hconcat⟩ := Driver.parallelSearch_primes hp hn hlt shares 1 le_rfl
      (by omega) hall
    rw [htotal] at hconcat
    exact ⟨r, rs, hseq, hrs, hconcat.trans (hroots hp hn hlt).symm⟩
  · obtain ⟨rs, hrs, hnone⟩ := Driver.parallelSearch_notPrime h shares 1 hall
    exact ⟨r, rs, hseq, hrs, (hnone hne).trans (hfail h).symm⟩

end Sys2Proof.Proofs

/-! SUPPORT. What the pin and a reset leave, the loaded registers after a completion, and the step
counts of the datapaths. -/

namespace Sys2Proof.Machine

/-! ### Reset -/

/-- The events, the bus answer and the pin are read by no register. -/
theorem State.reset_readReg_port (es : List Event) (a : Option Reply) (b : Bool) (r : Reg) :
    ({ State.reset with events := es, reply := a, inReset := b } : State).readReg r =
      State.reset.readReg r := rfl

/-- But for the two constants, every register reads 0 after reset (R230). -/
theorem State.reset_readReg_eq_zero {r : Reg} (hid : r ≠ .id) (hversion : r ≠ .version) :
    State.reset.readReg r = 0#32 := by
  cases r with
  | id => exact absurd rfl hid
  | version => exact absurd rfl hversion
  | div i => revert i; decide
  | ctrl | status | cmd | result | divcnt | opa | opb | opm | opt => decide

/-- While `rst_n` is 0, a step leaves every register and the engine at the reset value (R230). -/
theorem Inv.step_inReset {s t : State} (h : Inv s) (hr : s.inReset = true)
    (hstep : step s = .next t) :
    ∃ es a b, t = { State.reset with events := es, reply := a, inReset := b } := by
  rcases step_next hstep with ⟨es, a, rfl⟩ | ⟨reg, v, es, ⟨hout, -⟩, -⟩ | ⟨⟨hout, -⟩, -⟩ |
    ⟨-, es, a, b, rfl⟩
  · rw [h.held_in_reset hr]
    exact ⟨es, a, true, rfl⟩
  · simp [hr] at hout
  · simp [hr] at hout
  · exact ⟨es, a, b, rfl⟩

/-- A transaction that selects the block while `rst_n` is 0 is refused (R232). -/
theorem transact_inReset {s : State} (hr : s.inReset = true) (serve : State → State) :
    transact s serve = .refused .transactionDuringReset := if_pos hr

/-! ### The completion of a successful SAFEPRIME -/

/-- The engine's turn, when it is the next event, ends the held command. -/
theorem step_engine {s : State} {q : Snapshot} {rest : List Event} (hr : s.inReset = false)
    (hq : s.engine = .busy q) (he : s.events = .engine :: rest) :
    step s = .next ((s.withEvents rest).conclude (endOf s q)) :=
  (step_cons he).trans (engineTurn_busy (s := s.withEvents rest) hr hq)

/-- SAFEPRIME on a Sophie Germain prime that fits ends with its loads, in every state (R150). -/
theorem endOf_safeprime {q : Snapshot} (hcmd : q.cmd = Instr.safeprime.fields)
    (hlt : q.a.toNat < 2 ^ 31) (hp : q.a.toNat.Prime) (hn : (2 * q.a.toNat + 1).Prime) (s : State) :
    endOf s q = .completeLoading (u32 (2 * q.a.toNat + 1)) (orderLoad q.a.toNat) := by
  have hdecode : decodeFields q.cmd = .legal .safeprime := by rw [hcmd, decodeFields_fields]
  rw [endOf_legal hdecode]
  exact safeprimeRule_loads hlt ((trialPrime_iff_prime _).2 hn) ((trialPrime_iff_prime _).2 hp)

/-- Every register that SAFEPRIME loads is one a host can write (R22-R27, R243). -/
theorem isOperandReg_of_isLoadedReg {r : Reg} (h : isLoadedReg r = true) :
    isOperandReg r = true := by
  cases r with
  | opm | opt | divcnt | div i => rfl
  | id | version | ctrl | status | cmd | result | opa | opb => contradiction

/-- A loaded register reads the same after the load, whatever it held before (R150). -/
theorem State.readReg_loaded {r : Reg} (h : isLoadedReg r = true) (s u : State) (v : Word)
    (o : OrderLoad) : (u.conclude (.completeLoading v o)).readReg r =
      (s.conclude (.completeLoading v o)).readReg r := by
  cases r with
  | opm | opt | divcnt => rfl
  | div i =>
    have hi : i.val < 4 := of_decide_eq_true h
    simp only [State.readReg, State.conclude, State.complete, State.finish_div, State.load_div,
      Fin.getElem_fin, Vector.getElem_set]
    split_ifs
    · rfl
    · rfl
    · rfl
    · rfl
    · omega
  | id | version | ctrl | status | cmd | result | opa | opb => contradiction

/-- A loading completion leaves every register the same in two blocks that differ in a loaded
register only, and agree on LASTOP and OVR. -/
theorem State.readReg_conclude_loading_congr {s u : State} {r : Reg} (h : isLoadedReg r = true)
    (hlastop : u.lastop = s.lastop) (hovr : u.ovr = s.ovr)
    (hother : ∀ r', r' ≠ r → u.readReg r' = s.readReg r') (v : Word) (o : OrderLoad) (r' : Reg) :
    (u.conclude (.completeLoading v o)).readReg r' =
      (s.conclude (.completeLoading v o)).readReg r' := by
  by_cases hr : r' = r
  · subst hr
    exact State.readReg_loaded h s u v o
  · exact State.readReg_conclude_congr _ hlastop hovr (hother r' hr)

namespace Datapath

/-! ### The bits of an operand -/

/-- Halving an operand that is not 0 takes one bit off its length. -/
theorem bitLength_of_ne_zero {e : Word} (he : e ≠ 0#32) :
    bitLength e = bitLength (e >>> 1) + 1 := by
  have hpos := toNat_pos_of_ne_zero he
  simp only [bitLength, if_neg he, word_eq_zero_iff (e >>> 1), shiftRight_one_toNat]
  rw [Nat.log2_def]
  split_ifs <;> omega

theorem bitLength_le (e : Word) : bitLength e ≤ 32 := by
  rw [bitLength]
  split_ifs with he
  · exact Nat.zero_le _
  · have hne : e.toNat ≠ 0 := mt (word_eq_zero_iff e).2 he
    exact (Nat.log2_lt hne).2 e.isLt

theorem popCount_le (e : Word) : popCount e ≤ 32 :=
  (List.length_filter_le _ _).trans_eq List.length_range

/-- Halving an operand takes its lowest bit off the number of set bits. -/
theorem popCount_eq (e : Word) :
    popCount e = popCount (e >>> 1) + if e.getLsbD 0 = true then 1 else 0 := by
  have hshift (k : Nat) : e.getLsbD (k + 1) = (e >>> 1).getLsbD k := by
    rw [BitVec.getLsbD_ushiftRight, Nat.add_comm]
  have hlast : (e >>> 1).getLsbD 31 = false := by
    rw [← hshift]
    exact BitVec.getLsbD_of_ge e 32 le_rfl
  have hlow : popCount e = ((List.range 31).filter fun k => (e >>> 1).getLsbD k).length +
      if e.getLsbD 0 = true then 1 else 0 := by
    rw [popCount, List.range_succ_eq_map, List.filter_cons, List.filter_map]
    simp only [Function.comp_def, Nat.succ_eq_add_one, hshift]
    split_ifs <;> simp
  have hhigh : popCount (e >>> 1) =
      ((List.range 31).filter fun k => (e >>> 1).getLsbD k).length := by
    rw [popCount, List.range_succ, List.filter_append,
      List.filter_cons_of_neg (Bool.not_eq_true _ ▸ hlast), List.filter_nil, List.append_nil]
  rw [hlow, hhigh]

/-! ### Step counts -/

/-- The double-and-add loop makes at most one iteration for each bit of the loop operand (R251). -/
theorem doubleAndAdd_steps_le (fuel : Nat) (m : Word) :
    ∀ a b acc : Word, (doubleAndAdd fuel a b acc m).steps ≤ bitLength a := by
  induction fuel with
  | zero => exact fun _ _ _ => Nat.zero_le _
  | succ fuel ih =>
    intro a b acc
    rw [doubleAndAdd]
    split <;> rename_i h
    · rw [bitLength_of_ne_zero h.1]
      exact Nat.succ_le_succ (ih _ _ _)
    · exact Nat.zero_le _

/-- The fast path makes no iteration (R251). -/
theorem mulmod_steps_of_le {a b m : Word} (ha : (a % m).toNat ≤ 0xFFFF)
    (hb : (b % m).toNat ≤ 0xFFFF) : (mulmod a b m).steps = 0 := by
  have hfast : a % m ≤ 0xFFFF#32 ∧ b % m ≤ 0xFFFF#32 := ⟨ha, hb⟩
  simp only [mulmod, if_pos hfast, fastPath]

/-- The smaller reduced operand drives the slow path, and bounds its iterations (R251). -/
theorem mulmod_steps_le (a b m : Word) :
    (mulmod a b m).steps ≤ bitLength (if b % m < a % m then b % m else a % m) := by
  simp only [mulmod]
  split
  · exact Nat.zero_le _
  · rw [slowPath]
    split_ifs
    · exact doubleAndAdd_steps_le 32 m _ _ _
    · exact doubleAndAdd_steps_le 32 m _ _ _

/-- The POWMOD loop squares once for each bit of the exponent and multiplies once for each set bit,
with fuel for every bit (R252). -/
theorem powmodLoop_steps (fuel : Nat) (m : Word) :
    ∀ e b r : Word, e.toNat < 2 ^ fuel →
      (powmodLoop fuel e b r m).steps = bitLength e + popCount e := by
  have hnil : bitLength 0#32 + popCount 0#32 = 0 := by decide
  induction fuel with
  | zero =>
    intro e b r he
    obtain rfl : e = 0#32 := (word_eq_zero_iff e).2 (by simpa using he)
    exact hnil.symm
  | succ fuel ih =>
    intro e b r he
    have hhalf : (e >>> 1).toNat < 2 ^ fuel := by
      rw [pow_succ] at he
      rw [shiftRight_one_toNat]
      omega
    rw [powmodLoop]
    split_ifs with hzero hbit
    · rw [hzero, hnil]
    · rw [bitLength_of_ne_zero hzero, popCount_eq e, if_pos hbit]
      simp only [ih _ _ _ hhalf]
      omega
    · rw [bitLength_of_ne_zero hzero, popCount_eq e, if_neg hbit]
      simp only [ih _ _ _ hhalf]
      omega

theorem powmod_steps (b e m : Word) : (powmod b e m).steps = bitLength e + popCount e :=
  powmodLoop_steps 32 m e b _ e.isLt

theorem powmod_steps_le (b e m : Word) : (powmod b e m).steps ≤ 64 := by
  rw [powmod_steps]
  exact Nat.add_le_add (bitLength_le e) (popCount_le e)

/-- The trial-division loop divides at most once for each unit of fuel. -/
theorem trialLoop_steps_le (n : Word) (fuel : Nat) : ∀ d, (trialLoop fuel d n).steps ≤ fuel := by
  induction fuel with
  | zero => exact fun _ => le_rfl
  | succ fuel ih =>
    intro d
    rw [trialLoop]
    split_ifs
    · exact Nat.zero_le _
    · exact Nat.succ_le_succ (Nat.zero_le _)
    · exact Nat.succ_le_succ (ih _)

theorem prime32_steps_le (n : Word) : (prime32 n).steps ≤ Numeric.maxTrials := by
  rw [prime32]
  split_ifs
  · exact Nat.zero_le _
  · exact Nat.zero_le _
  · exact trialLoop_steps_le n _ _

/-- The divisor scan makes at most one POWMOD for each divisor (R254). -/
theorem scan_steps_le (r n : Word) (ds : List Word) : (scan r n ds).steps ≤ 64 * ds.length := by
  induction ds with
  | nil => exact Nat.zero_le _
  | cons d ds ih =>
    have hpower := powmod_steps_le r d n
    simp only [scan, List.length_cons]
    split_ifs <;> dsimp only <;> omega

end Datapath

end Sys2Proof.Machine

/-! PROOFS. The statements about reset, the step bounds of the datapaths, and a write that races
SAFEPRIME. -/

namespace Sys2Proof.Proofs

open Sys2Proof Sys2Proof.Machine

/-! ### Reset -/

/-- Settles O46: the state after reset is one of the reset states, with the pin released. -/
theorem invariantHoldsAfterReset : Obligations.InvariantHoldsAfterReset := inv_reset [] none false

/-- Settles O19: the address selects the block, which refuses the transaction. -/
theorem transactionDuringResetIsRefused : Obligations.TransactionDuringResetIsRefused := by
  intro s off size v rest hr ho he
  have hr' : (s.withEvents rest).inReset = true := hr
  rcases he with he | he
  · simp only [step_cons he, happen, windowOffset_add _ ho, transact_inReset hr']
  · simp only [step_cons he, happen, windowOffset_add _ ho, transact_inReset hr']

/-- Settles O7: both edges reset the block, and until the second one a step can do nothing else. -/
theorem resetLeavesTheResetValues : Obligations.ResetLeavesTheResetValues := by
  refine ⟨⟨rfl, rfl, fun r => State.reset_readReg_eq_zero, rfl, rfl⟩, fun s rest he => ?_,
    fun s rest hr he => ?_, fun s t h hr hstep => ?_⟩
  · rw [step_cons he]
    rfl
  · have hr' : (s.withEvents rest).inReset = true := hr
    rw [step_cons he, happen, State.pinHigh, if_pos hr']
    rfl
  · obtain ⟨es, a, b, rfl⟩ := h.step_inReset hr hstep
    exact ⟨State.reset_readReg_port es a b, rfl, rfl⟩

/-! ### Step bounds -/

/-- Settles O43: a word has at most 32 bits. -/
theorem mulmodIterationBound : Obligations.MulmodIterationBound := fun a b m _ =>
  ⟨Datapath.mulmod_steps_of_le, Datapath.mulmod_steps_le a b m,
    (Datapath.mulmod_steps_le a b m).trans (Datapath.bitLength_le _)⟩

/-- Settles O44: the loop halves the exponent, taking off one bit with each turn. -/
theorem powmodMultiplicationCount : Obligations.PowmodMultiplicationCount := fun b e m =>
  ⟨Datapath.powmod_steps b e m, Datapath.powmod_steps_le b e m⟩

/-- Settles O45: ISPRIME's loop has fuel for 32767 divisors, SAFEPRIME runs it twice, and a scan
makes one POWMOD of at most 64 MULMODs for each divisor. -/
theorem trialAndOrderStepBounds : Obligations.TrialAndOrderStepBounds := by
  refine ⟨Datapath.prime32_steps_le, fun r n ds hlen => ?_, fun p _ => ?_⟩
  · exact (Datapath.scan_steps_le _ n ds).trans (Nat.mul_le_mul_left 64 hlen)
  · exact Nat.add_le_add (Datapath.prime32_steps_le _) (Datapath.prime32_steps_le p)

/-! ### A write that races SAFEPRIME -/

/-- Settles O55: the completion loads over a write that comes before it, and a write that comes
after it is served as any other. -/
theorem safeprimeRaceAdmitsBothOutcomes : Obligations.SafeprimeRaceAdmitsBothOutcomes := by
  intro s q r v hr hq hcmd hlt hp hn hload
  have hop := isOperandReg_of_isLoadedReg hload
  have hend := endOf_safeprime hcmd hlt hp hn
  have hdone (rest : List Event) := step_engine (s := s.withEvents (.engine :: rest)) hr hq rfl
  have hwrite := step_writeReg (s := s.withEvents [.write (Config.base + r.offset) 4 v, .engine])
    hr rfl
  have same := (s.withEvents [.engine]).writeReg_operand_sameControl hop v
  obtain ⟨-, hpin, hevents⟩ := (s.withEvents [.engine]).writeReg_operand_port hop v
  have hthenDone := step_engine (s := ((s.withEvents [.engine]).writeReg r v).answer (some .done))
    (hpin.trans hr) (same.engine.trans hq) hevents
  have hthenWrite := step_writeReg (rest := []) (reg := r) (v := v)
    (s := (s.withEvents [.write (Config.base + r.offset) 4 v]).conclude (endOf s q))
    (by simpa using hr) (by simp)
  refine ⟨_, _, _, runSteps_succ (hdone []) 0, by simp [hend, CommandOutcome.code],
    (runSteps_succ hwrite 1).trans (runSteps_succ hthenDone 0), fun r' => ?_,
    (runSteps_succ (hdone _) 1).trans (runSteps_succ hthenWrite 0), ?_⟩
  · rw [hend, hend]
    refine State.readReg_conclude_loading_congr hload ?_ ?_ (fun r'' hne => ?_) _ _ r'
    · exact same.lastop
    · exact same.ovr
    · exact State.readReg_writeReg_other _ hop hne v
  · exact State.readReg_writeReg_same _ hop v

end Sys2Proof.Proofs
